-- ==== Sys2Proof/Word.lean ====
section
/-! DEFINITION. The machine's plain number types, named as 00_scope.md R8 and R9 and 10_state.md R20 to R24 name them. -/

namespace Sys2Proof

/-- An 8-bit unsigned value: a register, a timer, a byte of memory (R20, R26, R60). -/
abbrev Byte := BitVec 8

/-- A 16-bit unsigned value: I, PC, a stack slot, an instruction word (R22, R23, R24, R90). -/
abbrev Word := BitVec 16

/-- A register selector: a 4-bit field, so every value names a register (R20). -/
abbrev Reg := Fin 16

/-- A key number 0x0 to 0xF (44_random_keypad.md R194). -/
abbrev Key := Fin 16

end Sys2Proof
end

