-- ==== Sys2Proof/Syntax.lean ====
section
/-! DEFINITION. The 34 instructions of 30_encoding.md R95, one constructor per row of spec/opcode_table.json, in the table's order. -/

namespace Sys2Proof

/-- An instruction with its operands as 30_encoding.md R91 and R93 give them: `x`, `y` register selectors, `nn` a
byte, `nnn` an address already zero-extended to 16 bits, `n` a count of sprite rows. -/
inductive Instr where
  /-- 00E0 CLS (R120). -/
  | cls
  /-- 00EE RET (R130). -/
  | ret
  /-- 1nnn JP nnn (R131). -/
  | jp (nnn : Word)
  /-- 2nnn CALL nnn (R132). -/
  | call (nnn : Word)
  /-- 3xnn SE Vx, nn (R133). -/
  | seImm (x : Reg) (nn : Byte)
  /-- 4xnn SNE Vx, nn (R134). -/
  | sneImm (x : Reg) (nn : Byte)
  /-- 5xy0 SE Vx, Vy (R135). -/
  | seReg (x y : Reg)
  /-- 6xnn LD Vx, nn (R150). -/
  | ldImm (x : Reg) (nn : Byte)
  /-- 7xnn ADD Vx, nn (R151). -/
  | addImm (x : Reg) (nn : Byte)
  /-- 8xy0 LD Vx, Vy (R152). -/
  | ldReg (x y : Reg)
  /-- 8xy1 OR Vx, Vy (R153). -/
  | orReg (x y : Reg)
  /-- 8xy2 AND Vx, Vy (R154). -/
  | andReg (x y : Reg)
  /-- 8xy3 XOR Vx, Vy (R155). -/
  | xorReg (x y : Reg)
  /-- 8xy4 ADD Vx, Vy (R156). -/
  | addReg (x y : Reg)
  /-- 8xy5 SUB Vx, Vy (R157). -/
  | subReg (x y : Reg)
  /-- 8xy6 SHR Vx, Vy (R158). -/
  | shr (x y : Reg)
  /-- 8xy7 SUBN Vx, Vy (R159). -/
  | subnReg (x y : Reg)
  /-- 8xyE SHL Vx, Vy (R160). -/
  | shl (x y : Reg)
  /-- 9xy0 SNE Vx, Vy (R136). -/
  | sneReg (x y : Reg)
  /-- Annn LD I, nnn (R170). -/
  | ldI (nnn : Word)
  /-- Bnnn JP V0, nnn (R137). -/
  | jpOffset (nnn : Word)
  /-- Cxnn RND Vx, nn (R190). -/
  | rnd (x : Reg) (nn : Byte)
  /-- Dxyn DRW Vx, Vy, n (R121). -/
  | drw (x y : Reg) (n : Nat)
  /-- Ex9E SKP Vx (R191). -/
  | skp (x : Reg)
  /-- ExA1 SKNP Vx (R192). -/
  | sknp (x : Reg)
  /-- Fx07 LD Vx, DT (R200). -/
  | ldFromDT (x : Reg)
  /-- Fx0A LD Vx, K (R193). -/
  | waitKey (x : Reg)
  /-- Fx15 LD DT, Vx (R201). -/
  | setDT (x : Reg)
  /-- Fx18 LD ST, Vx (R202). -/
  | setST (x : Reg)
  /-- Fx1E ADD I, Vx (R171). -/
  | addI (x : Reg)
  /-- Fx29 LD F, Vx (R172). -/
  | ldFont (x : Reg)
  /-- Fx33 LD B, Vx (R173). -/
  | bcd (x : Reg)
  /-- Fx55 LD [I], Vx (R174). -/
  | storeRegs (x : Reg)
  /-- Fx65 LD Vx, [I] (R175). -/
  | loadRegs (x : Reg)
  deriving DecidableEq, Repr

end Sys2Proof
end

