-- ==== Sys2Proof/WellFormed.lean ====
section
/-! DEFINITION. Which instructions have an encoding: the immediates fit their fields (30_encoding.md R91). Register selectors and `nn` fit by their types. -/

namespace Sys2Proof

/-- The field checks of R91: `nnn` has 12 bits, `n` has 4 bits (log 22). -/
def Instr.wellFormed : Instr → Bool
  | .jp nnn | .call nnn | .ldI nnn | .jpOffset nnn => decide (nnn.toNat < 0x1000)
  | .drw _ _ n => decide (n < 16)
  | .cls | .ret | .seImm _ _ | .sneImm _ _ | .seReg _ _ | .ldImm _ _ | .addImm _ _ | .ldReg _ _ | .orReg _ _
  | .andReg _ _ | .xorReg _ _ | .addReg _ _ | .subReg _ _ | .shr _ _ | .subnReg _ _ | .shl _ _ | .sneReg _ _
  | .rnd _ _ | .skp _ | .sknp _ | .ldFromDT _ | .waitKey _ | .setDT _ | .setST _ | .addI _ | .ldFont _ | .bcd _
  | .storeRegs _ | .loadRegs _ => true

end Sys2Proof
end

