-- ==== Sys2Proof/Decode.lean ====
section
/-! DEFINITION. Decoding (30_encoding.md R91 to R96), total on any bytes, then the encoder and the opcode map, each written from the spec's tables on its own. -/

namespace Sys2Proof

/-- Why the decoder refuses. -/
inductive DecodeReject where
  /-- The word matches no row of the opcode map (R96). -/
  | illegalWord
  /-- Fewer than the two bytes of an instruction were given (R90). -/
  | truncated
  deriving DecidableEq, Repr

/-! ## Fields (R91) -/

/-- `f = op[15:12]`, the family. -/
def fieldF (op : Word) : BitVec 4 := op.extractLsb' 12 4

/-- `x = op[11:8]`. -/
def fieldX (op : Word) : Reg := (op.extractLsb' 8 4).toFin

/-- `y = op[7:4]`. -/
def fieldY (op : Word) : Reg := (op.extractLsb' 4 4).toFin

/-- `n = op[3:0]`. -/
def fieldN (op : Word) : BitVec 4 := op.extractLsb' 0 4

/-- `nn = op[7:0]`. -/
def fieldNN (op : Word) : Byte := op.extractLsb' 0 8

/-- `nnn = op[11:0]`, zero-extended to 16 bits (R93). -/
def fieldNNN (op : Word) : Word := (op.extractLsb' 0 12).setWidth 16

/-! ## Decode (R94) -/

/-- Family 0: all sixteen bits of 00E0 and 00EE are compared. -/
def decodeSystem (op : Word) : Except DecodeReject Instr :=
  if op = 0x00E0#16 then .ok .cls else if op = 0x00EE#16 then .ok .ret else .error .illegalWord

/-- Family 8, by `n`. -/
def decodeAlu (op : Word) : Except DecodeReject Instr :=
  let x := fieldX op
  let y := fieldY op
  match fieldN op with
  | 0x0#4 => .ok (.ldReg x y)
  | 0x1#4 => .ok (.orReg x y)
  | 0x2#4 => .ok (.andReg x y)
  | 0x3#4 => .ok (.xorReg x y)
  | 0x4#4 => .ok (.addReg x y)
  | 0x5#4 => .ok (.subReg x y)
  | 0x6#4 => .ok (.shr x y)
  | 0x7#4 => .ok (.subnReg x y)
  | 0xE#4 => .ok (.shl x y)
  | _ => .error .illegalWord

/-- Family E, by `nn`. -/
def decodeKey (op : Word) : Except DecodeReject Instr :=
  match fieldNN op with
  | 0x9E#8 => .ok (.skp (fieldX op))
  | 0xA1#8 => .ok (.sknp (fieldX op))
  | _ => .error .illegalWord

/-- Family F, by `nn`. -/
def decodeMisc (op : Word) : Except DecodeReject Instr :=
  let x := fieldX op
  match fieldNN op with
  | 0x07#8 => .ok (.ldFromDT x)
  | 0x0A#8 => .ok (.waitKey x)
  | 0x15#8 => .ok (.setDT x)
  | 0x18#8 => .ok (.setST x)
  | 0x1E#8 => .ok (.addI x)
  | 0x29#8 => .ok (.ldFont x)
  | 0x33#8 => .ok (.bcd x)
  | 0x55#8 => .ok (.storeRegs x)
  | 0x65#8 => .ok (.loadRegs x)
  | _ => .error .illegalWord

/-- `Decode(op)` of R94, by the family nibble. MODE is not an input (R98). -/
def decode (op : Word) : Except DecodeReject Instr :=
  match fieldF op with
  | 0x0#4 => decodeSystem op
  | 0x1#4 => .ok (.jp (fieldNNN op))
  | 0x2#4 => .ok (.call (fieldNNN op))
  | 0x3#4 => .ok (.seImm (fieldX op) (fieldNN op))
  | 0x4#4 => .ok (.sneImm (fieldX op) (fieldNN op))
  | 0x5#4 => if fieldN op = 0x0#4 then .ok (.seReg (fieldX op) (fieldY op)) else .error .illegalWord
  | 0x6#4 => .ok (.ldImm (fieldX op) (fieldNN op))
  | 0x7#4 => .ok (.addImm (fieldX op) (fieldNN op))
  | 0x8#4 => decodeAlu op
  | 0x9#4 => if fieldN op = 0x0#4 then .ok (.sneReg (fieldX op) (fieldY op)) else .error .illegalWord
  | 0xA#4 => .ok (.ldI (fieldNNN op))
  | 0xB#4 => .ok (.jpOffset (fieldNNN op))
  | 0xC#4 => .ok (.rnd (fieldX op) (fieldNN op))
  | 0xD#4 => .ok (.drw (fieldX op) (fieldY op) (fieldN op).toNat)
  | 0xE#4 => decodeKey op
  | _ => decodeMisc op

/-- The instruction word at the front of a list of bytes, high byte first (R90, 20_memory.md R64). -/
def wordOfBytes (hi lo : Byte) : Word := hi ++ lo

/-- Decoding at the front of any bytes: the instruction and the bytes after it, or a rejection by name. -/
def decodeBytes : List Byte → Except DecodeReject (Instr × List Byte)
  | hi :: lo :: rest =>
    match decode (wordOfBytes hi lo) with
    | .ok i => .ok (i, rest)
    | .error e => .error e
  | _ => .error .truncated

/-- The high byte of a word, `op[15:8]`. -/
def highByte (w : Word) : Byte := w.extractLsb' 8 8

/-- The low byte of a word, `op[7:0]`. -/
def lowByte (w : Word) : Byte := w.extractLsb' 0 8

/-- The word of a table row's `nbits` bits `w`, every bit above them 0. -/
def tableWord (nbits w : Nat) : Word := BitVec.ofNat 16 (w % 2 ^ nbits)

/-- What the decoder reads from the bytes of a table row's word as memory holds them: the high byte first. -/
def decodeTableWord (nbits w : Nat) : Option Instr :=
  match decodeBytes [highByte (tableWord nbits w), lowByte (tableWord nbits w)] with
  | .ok (i, _) => some i
  | .error _ => none

/-! ## Encode (the patterns of R95) -/

/-- A register selector as its four bits. -/
def selector (x : Reg) : BitVec 4 := BitVec.ofFin x

/-- Format XNN: `f x nn`. -/
def formatXNN (f : BitVec 4) (x : Reg) (nn : Byte) : Word := f ++ selector x ++ nn

/-- Format XY and XYN: `f x y n`. -/
def formatXYN (f : BitVec 4) (x y : Reg) (n : BitVec 4) : Word := f ++ selector x ++ selector y ++ n

/-- Format NNN: `f nnn`. -/
def formatNNN (f : BitVec 4) (nnn : Word) : Word := f ++ nnn.setWidth 12

/-- The word of an instruction (R92, R95). -/
def encode : Instr → Word
  | .cls => 0x00E0#16
  | .ret => 0x00EE#16
  | .jp nnn => formatNNN 0x1#4 nnn
  | .call nnn => formatNNN 0x2#4 nnn
  | .seImm x nn => formatXNN 0x3#4 x nn
  | .sneImm x nn => formatXNN 0x4#4 x nn
  | .seReg x y => formatXYN 0x5#4 x y 0x0#4
  | .ldImm x nn => formatXNN 0x6#4 x nn
  | .addImm x nn => formatXNN 0x7#4 x nn
  | .ldReg x y => formatXYN 0x8#4 x y 0x0#4
  | .orReg x y => formatXYN 0x8#4 x y 0x1#4
  | .andReg x y => formatXYN 0x8#4 x y 0x2#4
  | .xorReg x y => formatXYN 0x8#4 x y 0x3#4
  | .addReg x y => formatXYN 0x8#4 x y 0x4#4
  | .subReg x y => formatXYN 0x8#4 x y 0x5#4
  | .shr x y => formatXYN 0x8#4 x y 0x6#4
  | .subnReg x y => formatXYN 0x8#4 x y 0x7#4
  | .shl x y => formatXYN 0x8#4 x y 0xE#4
  | .sneReg x y => formatXYN 0x9#4 x y 0x0#4
  | .ldI nnn => formatNNN 0xA#4 nnn
  | .jpOffset nnn => formatNNN 0xB#4 nnn
  | .rnd x nn => formatXNN 0xC#4 x nn
  | .drw x y n => formatXYN 0xD#4 x y (BitVec.ofNat 4 n)
  | .skp x => formatXNN 0xE#4 x 0x9E#8
  | .sknp x => formatXNN 0xE#4 x 0xA1#8
  | .ldFromDT x => formatXNN 0xF#4 x 0x07#8
  | .waitKey x => formatXNN 0xF#4 x 0x0A#8
  | .setDT x => formatXNN 0xF#4 x 0x15#8
  | .setST x => formatXNN 0xF#4 x 0x18#8
  | .addI x => formatXNN 0xF#4 x 0x1E#8
  | .ldFont x => formatXNN 0xF#4 x 0x29#8
  | .bcd x => formatXNN 0xF#4 x 0x33#8
  | .storeRegs x => formatXNN 0xF#4 x 0x55#8
  | .loadRegs x => formatXNN 0xF#4 x 0x65#8

/-! ## The opcode map (R95) -/

/-- The `mask` and `match` columns of an instruction's row: the row applies exactly when `op &&& mask = match`. -/
def Instr.row : Instr → Word × Word
  | .cls => (0xFFFF#16, 0x00E0#16)
  | .ret => (0xFFFF#16, 0x00EE#16)
  | .jp _ => (0xF000#16, 0x1000#16)
  | .call _ => (0xF000#16, 0x2000#16)
  | .seImm _ _ => (0xF000#16, 0x3000#16)
  | .sneImm _ _ => (0xF000#16, 0x4000#16)
  | .seReg _ _ => (0xF00F#16, 0x5000#16)
  | .ldImm _ _ => (0xF000#16, 0x6000#16)
  | .addImm _ _ => (0xF000#16, 0x7000#16)
  | .ldReg _ _ => (0xF00F#16, 0x8000#16)
  | .orReg _ _ => (0xF00F#16, 0x8001#16)
  | .andReg _ _ => (0xF00F#16, 0x8002#16)
  | .xorReg _ _ => (0xF00F#16, 0x8003#16)
  | .addReg _ _ => (0xF00F#16, 0x8004#16)
  | .subReg _ _ => (0xF00F#16, 0x8005#16)
  | .shr _ _ => (0xF00F#16, 0x8006#16)
  | .subnReg _ _ => (0xF00F#16, 0x8007#16)
  | .shl _ _ => (0xF00F#16, 0x800E#16)
  | .sneReg _ _ => (0xF00F#16, 0x9000#16)
  | .ldI _ => (0xF000#16, 0xA000#16)
  | .jpOffset _ => (0xF000#16, 0xB000#16)
  | .rnd _ _ => (0xF000#16, 0xC000#16)
  | .drw _ _ _ => (0xF000#16, 0xD000#16)
  | .skp _ => (0xF0FF#16, 0xE09E#16)
  | .sknp _ => (0xF0FF#16, 0xE0A1#16)
  | .ldFromDT _ => (0xF0FF#16, 0xF007#16)
  | .waitKey _ => (0xF0FF#16, 0xF00A#16)
  | .setDT _ => (0xF0FF#16, 0xF015#16)
  | .setST _ => (0xF0FF#16, 0xF018#16)
  | .addI _ => (0xF0FF#16, 0xF01E#16)
  | .ldFont _ => (0xF0FF#16, 0xF029#16)
  | .bcd _ => (0xF0FF#16, 0xF033#16)
  | .storeRegs _ => (0xF0FF#16, 0xF055#16)
  | .loadRegs _ => (0xF0FF#16, 0xF065#16)

/-- The opcode map's rows, `(mask, match)`, in the order of R95. -/
def opcodeMap : List (Word × Word) :=
  [(0xFFFF, 0x00E0), (0xFFFF, 0x00EE), (0xF000, 0x1000), (0xF000, 0x2000), (0xF000, 0x3000), (0xF000, 0x4000),
   (0xF00F, 0x5000), (0xF000, 0x6000), (0xF000, 0x7000)]
  ++ [(0xF00F, 0x8000), (0xF00F, 0x8001), (0xF00F, 0x8002), (0xF00F, 0x8003), (0xF00F, 0x8004), (0xF00F, 0x8005),
   (0xF00F, 0x8006), (0xF00F, 0x8007), (0xF00F, 0x800E)]
  ++ [(0xF00F, 0x9000), (0xF000, 0xA000), (0xF000, 0xB000), (0xF000, 0xC000), (0xF000, 0xD000), (0xF0FF, 0xE09E),
   (0xF0FF, 0xE0A1)]
  ++ [(0xF0FF, 0xF007), (0xF0FF, 0xF00A), (0xF0FF, 0xF015), (0xF0FF, 0xF018), (0xF0FF, 0xF01E), (0xF0FF, 0xF029),
   (0xF0FF, 0xF033), (0xF0FF, 0xF055), (0xF0FF, 0xF065)]

/-- Whether a row of the opcode map applies to a word. -/
def rowApplies (op : Word) (row : Word × Word) : Bool := op &&& row.1 == row.2

end Sys2Proof
end

