-- ==== Sys2Proof/Config.lean ====
section
/-! DEFINITION. The implementation parameters of the CORE (00_scope.md R7) and the free values the spec leaves to the environment (93_implementation_defined.md section 2). -/

namespace Sys2Proof

/-- The OPEN parameters of R7, "arguments of the model" (log 5). One machine has one of these for good: no event
changes it, and every statement over all states is a statement over all parameters.
INSTR_RATE is left out: no rule depends on it (R290). -/
structure Config where
  /-- FONT_BASE: where the font table lies. -/
  fontBase      : Word
  /-- FONT_TABLE: 16 glyphs of 5 bytes. -/
  fontTable     : Vector Byte 80
  /-- MEM_INIT: memory at power-on before the font is installed; a byte past the end of the list is 0. -/
  memInit       : List Byte
  /-- DISPLAY_WIDTH. -/
  displayWidth  : Nat
  /-- DISPLAY_HEIGHT. -/
  displayHeight : Nat
  /-- DISP_LEN: how many bytes of the save buffer are the display surface's own. -/
  dispLen       : Nat
  /-- SAVE_CAPACITY: the largest payload `save` may produce. -/
  saveCapacity  : Nat
  deriving DecidableEq, Repr

/-- The constraints R7 puts on the parameters. -/
def Config.wf (c : Config) : Bool :=
  decide (c.fontBase.toNat + 80 ≤ 0x200) && decide (1 ≤ c.displayWidth) && decide (1 ≤ c.displayHeight)
    && decide (4184 + c.dispLen ≤ c.saveCapacity)

/-- FREE VALUE (R195, V1): the byte `randomByte()` returns, applied to a counter; a draw under no law (log 2). -/
opaque Config.freeRandom : Nat → Byte

/-- FREE VALUE (R194, V3, V4): the keys down, the one `firstPressedKey()` names at the head, applied to a counter
(log 2, log 3). -/
opaque Config.freeKeys : Nat → List Key

/-- FREE VALUE (R260, V5): how many steps of a free run come before its next Tick, applied to a counter (log 1). -/
opaque Config.freeGap : Nat → Nat

/-- FREE VALUE (R223): whether a pixel is lit after `restorePersistentFields(bytes)`, applied to a counter, the bytes and
the pixel's number (log 15). -/
opaque Config.restoredPixel : Nat → List Byte → Nat → Bool

end Sys2Proof
end

