-- ==== Sys2Proof/Machine/Defaults.lean ====
section
/-! DEFINITION. The values the parameters of 00_scope.md R7 have in State.reset. The spec gives none; each is a choice of the model, named in a log entry, and no statement over all states depends on it. -/

namespace Sys2Proof.Machine

/-- PRESUMED (log 7): the table 20_memory.md R62 offers as default, "from general knowledge, not in source". -/
def customaryFontTable : Vector Byte 80 :=
  #v[0xF0, 0x90, 0x90, 0x90, 0xF0,  0x20, 0x60, 0x20, 0x20, 0x70,
     0xF0, 0x10, 0xF0, 0x80, 0xF0,  0xF0, 0x10, 0xF0, 0x10, 0xF0,
     0x90, 0x90, 0xF0, 0x10, 0x10,  0xF0, 0x80, 0xF0, 0x10, 0xF0,
     0xF0, 0x80, 0xF0, 0x90, 0xF0,  0xF0, 0x10, 0x20, 0x40, 0x40,
     0xF0, 0x90, 0xF0, 0x90, 0xF0,  0xF0, 0x90, 0xF0, 0x10, 0xF0,
     0xF0, 0x90, 0xF0, 0x90, 0x90,  0xE0, 0x90, 0xE0, 0x90, 0xE0,
     0xF0, 0x80, 0x80, 0x80, 0xF0,  0xE0, 0x90, 0x90, 0x90, 0xE0,
     0xF0, 0x80, 0xF0, 0x80, 0xF0,  0xF0, 0x80, 0xF0, 0x80, 0x80]

/-- PRESUMED (log 6, log 7, log 8) and DESIGN CHOICE (log 9, log 10): the parameters of the machine State.reset is. -/
def defaultConfig : Config where
  fontBase := 0x0050
  fontTable := customaryFontTable
  memInit := []
  displayWidth := 64
  displayHeight := 32
  dispLen := 0
  saveCapacity := 4184

end Sys2Proof.Machine
end

