-- ==== Sys2Proof/Machine/State.lean ====
section
/-! DEFINITION. The state of the CORE (10_state.md R30), the inputs of its events, the reasons a step stops, and the state after power-on (R32). Plain data throughout. -/

namespace Sys2Proof.Machine

/-- MODE (R25): which dialect 8xy6, 8xyE, Bnnn, Fx55 and Fx65 follow. -/
inductive Mode where
  | legacy
  | extended
  deriving DecidableEq, Repr

/-- A timer control signal (R28, R221); every value that is none of the three is `unknown` (log 21). -/
inductive Signal where
  | pause
  | resume
  | exit
  | unknown
  deriving DecidableEq, Repr

/-- The timer pair (R26) and the timer engine's control state (R28). -/
structure Timers where
  /-- DT, the delay timer. -/
  dt     : Byte
  /-- ST, the sound timer. -/
  st     : Byte
  /-- T_PAUSED. -/
  paused : Bool
  /-- T_EXITED. -/
  exited : Bool
  /-- T_CLOSED. -/
  closed : Bool
  /-- T_QUEUE, the oldest signal first. -/
  queue  : List Signal
  deriving DecidableEq, Repr

/-- The environment's answers for one step (R31): one random byte (R195) and one sample of the keypad (R194), the keys
that are down with the one `firstPressedKey()` names at the head (log 3). -/
structure Inputs where
  random : Byte
  keys   : List Key
  deriving DecidableEq, Repr

/-- The host's commands other than `step` (46_host_commands.md). -/
inductive Command where
  /-- `initialize` (R211). -/
  | initCore
  /-- R212. -/
  | setProgramCounter (addr : Word)
  /-- R213. -/
  | setMode (mode : Mode)
  /-- R214. -/
  | loadROM (bytes : List Byte)
  /-- R217. -/
  | save
  /-- R218. -/
  | restore (buf : List Byte)
  /-- R221. -/
  | signal (s : Signal)
  /-- R222. -/
  | disconnect
  deriving DecidableEq, Repr

/-- One atomic event (R6). -/
inductive Event where
  /-- The host's `step` command (R215), with what the environment answers during it. -/
  | step (inputs : Inputs)
  /-- One Tick of the timer engine (R256). -/
  | tick
  /-- Another command of the host. -/
  | command (c : Command)
  /-- Power-on reset (R280; log 20). -/
  | powerOn
  /-- The display surface changes its persistent fields, which are its own (R223; log 15). -/
  | surface (bytes : List Byte)
  deriving DecidableEq, Repr

/-- What the host was last answered (R215, R217; log 13). -/
inductive Reply where
  /-- Nothing: no command yet, or the last one ended in Fatal (R215). -/
  | none
  /-- `continue`. -/
  | proceed
  /-- `decodeFailure`, whatever the cause (R215). -/
  | decodeFailure
  /-- The command was refused (R214). -/
  | refused
  /-- The byte string `save` returns (R217). -/
  | saved (buf : List Byte)
  deriving DecidableEq, Repr

/-- MEM as the bytes that differ from what memory held at power-on, by rising address. -/
abbrev Memory := List Host.Cell

/-- The whole state: the tuple of R30, the framebuffer in the second form of 40_display.md R123 (log 4), the display
surface's persistent fields of R223 (log 15), the parameters of R7 (log 5), and five fields of the model's own (inputs,
agenda, draws, untilTick, reply; INVENTORY.md). -/
structure State where
  /-- V[0..15] (R20). -/
  v      : Vector Byte 16
  /-- I (R22). -/
  i      : Word
  /-- PC (R23). -/
  pc     : Word
  /-- STACK[0..31] (R24). -/
  stack  : Vector Word 32
  /-- SP (R24). -/
  sp     : Nat
  /-- MODE (R25). -/
  mode   : Mode
  /-- DT, ST, T_PAUSED, T_EXITED, T_CLOSED, T_QUEUE (R26, R28). -/
  timers : Timers
  /-- MEM (R60). -/
  mem    : Memory
  /-- FATAL (R29). -/
  fatal  : Bool
  /-- FB: the numbers row * W + column of the lit pixels, strictly rising (R123). -/
  lit    : List Nat
  /-- The display surface's persistent fields, DISP_LEN bytes (R223; log 15). -/
  surface : List Byte
  /-- The parameters (R7). -/
  cfg    : Config
  /-- MODEL'S OWN: the answers the environment gives during the step being executed (R31). -/
  inputs : Inputs
  /-- MODEL'S OWN: the events the outside world causes next (R6; log 1). -/
  agenda : List Event
  /-- MODEL'S OWN: the counter the free values of Config are applied to (log 2). -/
  draws  : Nat
  /-- MODEL'S OWN: how many steps come before the next Tick while the agenda is empty (R260; log 1). -/
  untilTick : Nat
  /-- MODEL'S OWN: what the host was last answered (log 13). -/
  reply  : Reply
  deriving DecidableEq, Repr

/-- Why the machine stops. -/
inductive Fault where
  /-- Fail(FetchBound), raised by any step with PC > 0x0FFE (R243). Safe: the spec's own fault (R250); what a host that
  goes on finds is State.afterFail. -/
  | fetchBound
  /-- Fail(DecodeFailure), raised by any step that fetches an illegal word (R241). Safe: the spec's own fault. -/
  | decodeFailure
  /-- Fail(MemoryBound), raised by Fx33, Fx55, Fx65 and Dxyn when [I, I+k) is not inside memory (R242). Safe: the
  spec's own fault. -/
  | memoryBound
  /-- Raised by a step with FATAL set and an empty agenda: no agent has a step (R29, R251). Safe. -/
  | fatalLatched
  deriving DecidableEq, Repr

/-- Why an instruction is refused. -/
inductive Refusal where
  /-- Raised by an arm of exec that has no meaning yet; no arm is one. Safe. -/
  | notModelled (mnemonic : String)
  deriving DecidableEq, Repr

/-- The timer engine after power-on: running, queue empty, channel open, DT = ST = 0 (R32). -/
def Timers.reset : Timers where
  dt := 0
  st := 0
  paused := false
  exited := false
  closed := false
  queue := []

/-- Power-on reset of a machine with parameters `cfg` (R32). Memory lists nothing: an unlisted byte reads as the font
table or MEM_INIT. MODE and the timers rest on the spec's decisions D20 and D21, the framebuffer and the display's
persistent fields on log 4, the model's own fields on log 14. -/
def State.powerOn (cfg : Config) : State where
  v := Vector.replicate 16 0
  i := 0
  pc := 0
  stack := Vector.replicate 32 0
  sp := 0
  mode := .legacy
  timers := Timers.reset
  mem := []
  fatal := false
  lit := []
  surface := List.replicate cfg.dispLen 0
  cfg := cfg
  inputs := { random := 0, keys := [] }
  agenda := []
  draws := 0
  untilTick := 0
  reply := .none

/-- The machine right after power-on reset, with the parameters of `defaultConfig` (R32; logs 6 to 10). -/
def State.reset : State := State.powerOn defaultConfig

end Sys2Proof.Machine
end

