-- ==== Sys2Proof/Machine/Ops.lean ====
section
/-! DEFINITION. The named operations over registers, memory, stack, display and outcomes that every meaning is written in. -/

namespace Sys2Proof.Machine

/-- What a step, a meaning or a command answers. -/
abbrev Result := Host.Outcome State Fault Refusal

/-! ## Outcomes (R10) -/

/-- The causes of Fatal (R240). Nothing records them (R248). -/
inductive FatalCause where
  | stackOverflow
  | stackUnderflow
  | restoreMalformed
  | saveOverflow
  deriving DecidableEq, Repr

/-- Fail entry (R250): no state changes and the step is a fault (log 11). -/
def fail (cause : Fault) : Result := .fault cause

/-- The state after Fatal entry (R251): only FATAL is set, and the host is answered nothing (R215). -/
def State.setFatal (s : State) : State := { s with fatal := true, reply := .none }

/-- Fatal entry (R251), the exception the machine takes; there is no return from it (R252; log 17). The cause is not
recorded (R248). -/
def takeFatal (_cause : FatalCause) (s : State) : Result := .next s.setFatal

/-! ## Registers (R20 to R23) -/

/-- `V[x]`. -/
def State.getV (s : State) (x : Reg) : Byte := s.v[x.val]

/-- `V[x] <- b`. -/
def State.setV (s : State) (x : Reg) (b : Byte) : State := { s with v := s.v.set x.val b }

/-- VF, register 15 (R21). -/
abbrev vf : Reg := 15

/-- A flag as the byte written to VF: 0 or 1 (R21). -/
def flagByte (b : Bool) : Byte := if b then 1 else 0

/-- `VF <- flag`. -/
def State.setFlag (s : State) (b : Bool) : State := s.setV vf (flagByte b)

/-- `I <- w`. -/
def State.setI (s : State) (w : Word) : State := { s with i := w }

/-- `PC <- w`. -/
def State.setPc (s : State) (w : Word) : State := { s with pc := w }

/-- `PC <- PC + 2`, the default advance (R103 line 6). -/
def State.advance (s : State) : State := s.setPc (s.pc + 2)

/-- The advance of a skip: `PC + 4` when the condition holds, else `PC + 2` (R133). -/
def State.skipIf (s : State) (c : Bool) : State := s.setPc (if c then s.pc + 4 else s.pc + 2)

/-- `DT <- b`. -/
def State.setDT (s : State) (b : Byte) : State := { s with timers := { s.timers with dt := b } }

/-- `ST <- b`. -/
def State.setST (s : State) (b : Byte) : State := { s with timers := { s.timers with st := b } }

/-! ## Memory (R60 to R67) -/

/-- MEM_SIZE (R7). -/
abbrev memSize : Nat := 4096

/-- PROGRAM_ORIGIN (R7). -/
abbrev programOrigin : Nat := 0x200

/-- What an address nothing has written reads as: the font table in the font region, MEM_INIT elsewhere (R32). -/
def powerOnByte (c : Config) (a : Nat) : Byte :=
  if c.fontBase.toNat ≤ a ∧ a < c.fontBase.toNat + 80 then
    (c.fontTable[a - c.fontBase.toNat]?).getD 0
  else if a < memSize then c.memInit.getD a 0
  else 0

/-- The byte at an address, over what unlisted addresses read as. -/
def Memory.read (bg : Nat → Byte) : Memory → Nat → Byte
  | [], a => bg a
  | (k, b) :: m, a => if a = k then b else Memory.read bg m a

/-- Writes one byte and keeps the canonical form: writing what an unlisted address reads as removes the entry. -/
def Memory.write (bg : Nat → Byte) : Memory → Nat → Byte → Memory
  | [], a, b => if b = bg a then [] else [(a, b)]
  | (k, c) :: m, a, b =>
    if a < k then (if b = bg a then (k, c) :: m else (a, b) :: (k, c) :: m)
    else if a = k then (if b = bg a then m else (a, b) :: m)
    else (k, c) :: Memory.write bg m a b

/-- The canonical form: addresses strictly rising and inside memory, no entry equal to what the address reads as
unlisted. -/
def Memory.wf (bg : Nat → Byte) (m : Memory) : Bool :=
  decide (m.Pairwise fun p q => p.1 < q.1) && m.all fun p => decide (p.1 < memSize) && decide (p.2 ≠ bg p.1)

/-- The canonical memory whose bytes are those of a function. -/
def Memory.ofBytes (bg f : Nat → Byte) : Memory :=
  (List.range memSize).filterMap fun a => if f a = bg a then none else some (a, f a)

/-- `MEM[a]`. -/
def State.readByte (s : State) (a : Nat) : Byte := s.mem.read (powerOnByte s.cfg) a

/-- `MEM[a] <- b`. -/
def State.writeByte (s : State) (a : Nat) (b : Byte) : State := { s with mem := s.mem.write (powerOnByte s.cfg) a b }

/-- Byte writes at ascending addresses from `a` (R65). -/
def State.writeBytes (s : State) (a : Nat) : List Byte → State
  | [] => s
  | b :: bs => (s.writeByte a b).writeBytes (a + 1) bs

/-- Byte reads at ascending addresses from `a` (R65). -/
def State.readBytes (s : State) (a k : Nat) : List Byte := (List.range k).map fun j => s.readByte (a + j)

/-- The bounds check of R63 on the range `[a, a + k)`, on naturals; an empty range always passes (log 12). -/
def rangeInMemory (a k : Nat) : Bool := decide (k = 0 ∨ a + k ≤ memSize)

/-- The fetch of R64: `MEM[PC] || MEM[PC + 1]`, big-endian. -/
def State.fetchWord (s : State) : Word := wordOfBytes (s.readByte s.pc.toNat) (s.readByte (s.pc.toNat + 1))

/-! ## Call stack (R24) -/

/-- STACK_CAPACITY (R7). -/
abbrev stackCapacity : Nat := 32

/-- `STACK[k]`; a slot that does not exist reads 0 (log 19). -/
def State.slot (s : State) (k : Nat) : Word := (s.stack[k]?).getD 0

/-- `STACK[SP] <- w; SP <- SP + 1`. -/
def State.push (s : State) (w : Word) : State := { s with stack := s.stack.setIfInBounds s.sp w, sp := s.sp + 1 }

/-- `SP <- SP - 1`; the slot keeps its value. -/
def State.pop (s : State) : State := { s with sp := s.sp - 1 }

/-! ## Display port (R122, second form of R123) -/

/-- The number of a pixel: row * W + column. -/
def pixelNumber (w : Nat) (p : Nat × Nat) : Nat := p.2 * w + p.1

/-- Inverts one pixel in the strictly rising list of lit ones. -/
def togglePixel (p : Nat) : List Nat → List Nat
  | [] => [p]
  | q :: qs => if p < q then p :: q :: qs else if p = q then qs else q :: togglePixel p qs

/-- `FB[row][col]`. -/
def State.pixelLit (s : State) (col row : Nat) : Bool :=
  decide (pixelNumber s.cfg.displayWidth (col, row) ∈ s.lit)

/-- The `draw` queries of one instruction in their order, each inverting its pixel; the Boolean says whether one of
them returned true, that is, turned a lit pixel off. -/
def drawPixels (w : Nat) : List (Nat × Nat) → List Nat → List Nat × Bool
  | [], lit => (lit, false)
  | p :: ps, lit =>
    let wasLit := decide (pixelNumber w p ∈ lit)
    let rest := drawPixels w ps (togglePixel (pixelNumber w p) lit)
    (rest.1, wasLit || rest.2)

/-- `clear()`: every pixel off. -/
def State.clearDisplay (s : State) : State := { s with lit := [] }

/-- The framebuffer after the queries of an instruction. -/
def State.setLit (s : State) (lit : List Nat) : State := { s with lit := lit }

end Sys2Proof.Machine
end

