-- ==== Sys2Proof/Machine/Flags.lean ====
section
/-! DEFINITION. The value each flag-writing instruction puts into VF (10_state.md R21), from the operands read at the start (R162). -/

namespace Sys2Proof.Machine

/-- 8xy4: 1 if the sum exceeds 255 (R156). -/
def carryFlag (a b : Byte) : Bool := decide (255 < a.toNat + b.toNat)

/-- 8xy5 and 8xy7: 1 if minuend >= subtrahend, that is, no borrow (R157, R159, R161). -/
def notBorrowFlag (minuend subtrahend : Byte) : Bool := decide (subtrahend.toNat ≤ minuend.toNat)

/-- 8xy6: bit 0 of the source (R158). -/
def shiftedOutRight (b : Byte) : Bool := b.getLsbD 0

/-- 8xyE: bit 7 of the source (R160). -/
def shiftedOutLeft (b : Byte) : Bool := b.getLsbD 7

/-- Fx1E: 1 if the sum carries out of 16 bits or its 16-bit value exceeds 0x0FFF (R171). -/
def indexRangeFlag (i : Word) (b : Byte) : Bool :=
  decide (65535 < i.toNat + b.toNat ∨ 0x0FFF < (i.toNat + b.toNat) % 65536)

end Sys2Proof.Machine
end

