-- ==== Sys2Proof/Machine/Operands.lean ====
section
/-! DEFINITION. The operand forms beyond a plain register or immediate: the mode-dependent sources, the nibble operands, the digits of Fx33 and the pixels of a sprite. -/

namespace Sys2Proof.Machine

/-- The shift source of 8xy6 and 8xyE: `V[y]` in Legacy mode, `V[x]` in Extended mode (R158, R160). -/
def shiftSource (s : State) (x y : Reg) : Byte :=
  match s.mode with
  | .legacy => s.getV y
  | .extended => s.getV x

/-- The offset register of Bnnn: V0 in Legacy mode, `V[nnn[11:8]]` in Extended mode (R137). -/
def offsetRegister (mode : Mode) (nnn : Word) : Reg :=
  match mode with
  | .legacy => 0
  | .extended => (nnn.extractLsb' 8 4).toFin

/-- The low nibble `b[3:0]`: a font digit (R172) or a key number (R191, decision D12). -/
def lowNibble (b : Byte) : Fin 16 := (b.extractLsb' 0 4).toFin

/-- `FONT_BASE + 5 * digit` (R172). -/
def glyphAddress (c : Config) (digit : Fin 16) : Word := c.fontBase + BitVec.ofNat 16 (5 * digit.val)

/-- Hundreds, tens and ones (R173). -/
def bcdDigits (b : Byte) : List Byte :=
  [BitVec.ofNat 8 (b.toNat / 100), BitVec.ofNat 8 (b.toNat / 10 % 10), BitVec.ofNat 8 (b.toNat % 10)]

/-- `V[0]` to `V[x]`, the bytes Fx55 stores (R174). -/
def State.regsUpTo (s : State) (x : Reg) : List Byte := s.v.toList.take (x.val + 1)

/-- `V[k] <- MEM[a + k]` for k = 0 to x; the registers above x keep their values (R175). -/
def State.loadRegsFrom (s : State) (a : Nat) (x : Reg) : State :=
  { s with v := Vector.ofFn fun k => if k ≤ x then s.readByte (a + k.val) else s.getV k }

/-- The advance of I by Fx55 and Fx65: past the range in Legacy mode, none in Extended mode (R174, R175). -/
def State.advanceI (s : State) (k : Nat) : State :=
  match s.mode with
  | .legacy => s.setI (s.i + BitVec.ofNat 16 k)
  | .extended => s

/-- `isKeyPressed(k)` (R194). -/
def keyPressed (inp : Inputs) (k : Key) : Bool := inp.keys.contains k

/-- The set pixels of one sprite row at column `x0`, most significant bit first, columns beyond the right edge clipped
(R121). -/
def rowPixels (w x0 row : Nat) (b : Byte) : List (Nat × Nat) :=
  (List.range 8).filterMap fun c => if x0 + c < w ∧ b.getLsbD (7 - c) then some (x0 + c, row) else none

/-- The `draw` queries of a sprite in their order: row by row from the top, rows beyond the bottom edge clipped
(R121). -/
def spritePixels (w h x0 : Nat) : Nat → List Byte → List (Nat × Nat)
  | _, [] => []
  | row, b :: bs => if row < h then rowPixels w x0 row b ++ spritePixels w h x0 (row + 1) bs else []

end Sys2Proof.Machine
end

