-- ==== Sys2Proof/Machine/Alu.lean ====
section
/-! DEFINITION. The register load and ALU instructions (42_alu.md). Operands are read from the state before, the result is written next and the flag last (R162). -/

namespace Sys2Proof.Machine

/-- Writes a result to `V[x]` and advances: the instructions that write no flag. -/
def State.writeResult (s : State) (x : Reg) (b : Byte) : State := (s.setV x b).advance

/-- Writes a result to `V[x]`, then a flag to VF, and advances (R162). -/
def State.writeResultFlag (s : State) (x : Reg) (b : Byte) (flag : Bool) : State := ((s.setV x b).setFlag flag).advance

/-- LD Vx, nn (R150). -/
def execLdImm (x : Reg) (nn : Byte) (s : State) : Result := .next (s.writeResult x nn)

/-- ADD Vx, nn (R151): wraps modulo 256, no flag. -/
def execAddImm (x : Reg) (nn : Byte) (s : State) : Result := .next (s.writeResult x (s.getV x + nn))

/-- LD Vx, Vy (R152). -/
def execLdReg (x y : Reg) (s : State) : Result := .next (s.writeResult x (s.getV y))

/-- OR Vx, Vy (R153). -/
def execOrReg (x y : Reg) (s : State) : Result := .next (s.writeResult x (s.getV x ||| s.getV y))

/-- AND Vx, Vy (R154). -/
def execAndReg (x y : Reg) (s : State) : Result := .next (s.writeResult x (s.getV x &&& s.getV y))

/-- XOR Vx, Vy (R155). -/
def execXorReg (x y : Reg) (s : State) : Result := .next (s.writeResult x (s.getV x ^^^ s.getV y))

/-- ADD Vx, Vy (R156). -/
def execAddReg (x y : Reg) (s : State) : Result :=
  .next (s.writeResultFlag x (s.getV x + s.getV y) (carryFlag (s.getV x) (s.getV y)))

/-- SUB Vx, Vy (R157). -/
def execSubReg (x y : Reg) (s : State) : Result :=
  .next (s.writeResultFlag x (s.getV x - s.getV y) (notBorrowFlag (s.getV x) (s.getV y)))

/-- SHR Vx, Vy (R158). -/
def execShr (x y : Reg) (s : State) : Result :=
  .next (s.writeResultFlag x (shiftSource s x y >>> 1) (shiftedOutRight (shiftSource s x y)))

/-- SUBN Vx, Vy (R159). -/
def execSubnReg (x y : Reg) (s : State) : Result :=
  .next (s.writeResultFlag x (s.getV y - s.getV x) (notBorrowFlag (s.getV y) (s.getV x)))

/-- SHL Vx, Vy (R160). -/
def execShl (x y : Reg) (s : State) : Result :=
  .next (s.writeResultFlag x (shiftSource s x y <<< 1) (shiftedOutLeft (shiftSource s x y)))

end Sys2Proof.Machine
end

