-- ==== Sys2Proof/Machine/ControlFlow.lean ====
section
/-! DEFINITION. The control transfer instructions (41_control_flow.md). -/

namespace Sys2Proof.Machine

/-- RET (R130). -/
def execRet (s : State) : Result :=
  if s.sp = 0 then takeFatal .stackUnderflow s
  else .next (s.pop.setPc (s.slot (s.sp - 1)))

/-- JP nnn (R131). -/
def execJp (nnn : Word) (s : State) : Result := .next (s.setPc nnn)

/-- CALL nnn (R132): pushes the address of the instruction after itself. -/
def execCall (nnn : Word) (s : State) : Result :=
  if s.sp < stackCapacity then .next ((s.push (s.pc + 2)).setPc nnn)
  else takeFatal .stackOverflow s

/-- SE Vx, nn (R133). -/
def execSeImm (x : Reg) (nn : Byte) (s : State) : Result := .next (s.skipIf (s.getV x == nn))

/-- SNE Vx, nn (R134). -/
def execSneImm (x : Reg) (nn : Byte) (s : State) : Result := .next (s.skipIf (s.getV x != nn))

/-- SE Vx, Vy (R135). -/
def execSeReg (x y : Reg) (s : State) : Result := .next (s.skipIf (s.getV x == s.getV y))

/-- SNE Vx, Vy (R136). -/
def execSneReg (x y : Reg) (s : State) : Result := .next (s.skipIf (s.getV x != s.getV y))

/-- JP V0, nnn (R137): the whole 16-bit sum, not reduced to 12 bits. -/
def execJpOffset (nnn : Word) (s : State) : Result :=
  .next (s.setPc (nnn + (s.getV (offsetRegister s.mode nnn)).setWidth 16))

end Sys2Proof.Machine
end

