-- ==== Sys2Proof/Machine/Display.lean ====
section
/-! DEFINITION. The display instructions 00E0 and Dxyn (40_display.md). -/

namespace Sys2Proof.Machine

/-- CLS (R120). -/
def execCls (s : State) : Result := .next s.clearDisplay.advance

/-- The `draw` queries DRW issues from a state (R121): the start coordinate is reduced modulo the display size, the
pixels are clipped. -/
def drawQueries (x y : Reg) (n : Nat) (s : State) : List (Nat × Nat) :=
  spritePixels s.cfg.displayWidth s.cfg.displayHeight ((s.getV x).toNat % s.cfg.displayWidth)
    ((s.getV y).toNat % s.cfg.displayHeight) (s.readBytes s.i.toNat n)

/-- DRW Vx, Vy, n (R121): VF receives 1 if any query turned a lit pixel off, else 0. -/
def execDrw (x y : Reg) (n : Nat) (s : State) : Result :=
  if rangeInMemory s.i.toNat n then
    let drawn := drawPixels s.cfg.displayWidth (drawQueries x y n s) s.lit
    .next ((s.setLit drawn.1).setFlag drawn.2).advance
  else fail .memoryBound

end Sys2Proof.Machine
end

