-- ==== Sys2Proof/Machine/IndexMemory.lean ====
section
/-! DEFINITION. The index register and memory instructions (43_index_memory.md). -/

namespace Sys2Proof.Machine

/-- LD I, nnn (R170). -/
def execLdI (nnn : Word) (s : State) : Result := .next (s.setI nnn).advance

/-- ADD I, Vx (R171). -/
def execAddI (x : Reg) (s : State) : Result :=
  .next ((s.setI (s.i + (s.getV x).setWidth 16)).setFlag (indexRangeFlag s.i (s.getV x))).advance

/-- LD F, Vx (R172). -/
def execLdFont (x : Reg) (s : State) : Result := .next (s.setI (glyphAddress s.cfg (lowNibble (s.getV x)))).advance

/-- LD B, Vx (R173). -/
def execBcd (x : Reg) (s : State) : Result :=
  if rangeInMemory s.i.toNat 3 then .next (s.writeBytes s.i.toNat (bcdDigits (s.getV x))).advance
  else fail .memoryBound

/-- LD [I], Vx (R174). -/
def execStoreRegs (x : Reg) (s : State) : Result :=
  if rangeInMemory s.i.toNat (x.val + 1) then
    .next ((s.writeBytes s.i.toNat (s.regsUpTo x)).advanceI (x.val + 1)).advance
  else fail .memoryBound

/-- LD Vx, [I] (R175). -/
def execLoadRegs (x : Reg) (s : State) : Result :=
  if rangeInMemory s.i.toNat (x.val + 1) then
    .next ((s.loadRegsFrom s.i.toNat x).advanceI (x.val + 1)).advance
  else fail .memoryBound

end Sys2Proof.Machine
end

