-- ==== Sys2Proof/Machine/RandomKeypad.lean ====
section
/-! DEFINITION. The random and keypad instructions (44_random_keypad.md). All queries of one step are answered from the one sample `inputs` holds (R194, R195). -/

namespace Sys2Proof.Machine

/-- RND Vx, nn (R190). -/
def execRnd (x : Reg) (nn : Byte) (s : State) : Result := .next (s.setV x (s.inputs.random &&& nn)).advance

/-- SKP Vx (R191). -/
def execSkp (x : Reg) (s : State) : Result := .next (s.skipIf (keyPressed s.inputs (lowNibble (s.getV x))))

/-- SKNP Vx (R192). -/
def execSknp (x : Reg) (s : State) : Result := .next (s.skipIf (!keyPressed s.inputs (lowNibble (s.getV x))))

/-- The state after LD Vx, K: the first pressed key, or nothing at all while no key is down (R193). -/
def State.takeKey (s : State) (x : Reg) : State :=
  match s.inputs.keys with
  | [] => s
  | k :: _ => (s.setV x (BitVec.ofNat 8 k.val)).advance

/-- LD Vx, K (R193): Continue in both cases. -/
def execWaitKey (x : Reg) (s : State) : Result := .next (s.takeKey x)

end Sys2Proof.Machine
end

