-- ==== Sys2Proof/Machine/TimerAccess.lean ====
section
/-! DEFINITION. The timer access instructions (45_timer_instructions.md). -/

namespace Sys2Proof.Machine

/-- LD Vx, DT (R200). -/
def execLdFromDT (x : Reg) (s : State) : Result := .next (s.setV x s.timers.dt).advance

/-- LD DT, Vx (R201). -/
def execSetDT (x : Reg) (s : State) : Result := .next (s.setDT (s.getV x)).advance

/-- LD ST, Vx (R202). -/
def execSetST (x : Reg) (s : State) : Result := .next (s.setST (s.getV x)).advance

end Sys2Proof.Machine
end

