-- ==== Sys2Proof/Machine/HostCommands.lean ====
section
/-! DEFINITION. The host's commands other than `step`, and the state serializer (46_host_commands.md). Each answers the host in `reply` (log 13). -/

namespace Sys2Proof.Machine

/-- A command that ends in Continue. -/
def State.answer (s : State) (r : Reply) : State := { s with reply := r }

/-- `initialize()` (R33, R211): V, I, PC, SP and STACK to zero, the font table installed; nothing else. -/
def State.initCore (s : State) : State :=
  State.writeBytes
    { s with v := Vector.replicate 16 0, i := 0, pc := 0, sp := 0, stack := Vector.replicate 32 0 }
    s.cfg.fontBase.toNat s.cfg.fontTable.toList

/-- `loadROM(bytes)` (R214): refused as a whole when it does not fit. -/
def State.loadROM (s : State) (bytes : List Byte) : State :=
  if bytes.length ≤ memSize - programOrigin then (s.writeBytes programOrigin bytes).answer .proceed
  else s.answer .refused

/-- PAYLOAD = 4184 + DISP_LEN (R216). -/
def payload (c : Config) : Nat := 4184 + c.dispLen

/-- A 16-bit field of the save buffer, low byte first (R216). -/
def littleEndian (w : Word) : List Byte := [lowByte w, highByte w]

/-- The MODE tag (R25, R216). -/
def modeTag : Mode → Byte
  | .legacy => 0
  | .extended => 1

/-- The machine-state part of the save buffer, offsets 4096 to 4183 (R216). -/
def State.saveFields (s : State) : List Byte :=
  littleEndian s.pc ++ littleEndian s.i ++ s.v.toList ++ s.stack.toList.flatMap littleEndian
    ++ [BitVec.ofNat 8 s.sp, modeTag s.mode, s.timers.dt, s.timers.st]

/-- The save buffer's first 4184 bytes: the memory image, then the machine state (R216). -/
def State.saveImage (s : State) : List Byte := s.readBytes 0 memSize ++ s.saveFields

/-- Byte `k` of a buffer. -/
def bufferByte (buf : List Byte) (k : Nat) : Byte := buf.getD k 0

/-- Exactly `n` bytes: those of a list, cut or filled up with zeros. -/
def exactBytes (n : Nat) (bytes : List Byte) : List Byte := (List.range n).map (bufferByte bytes)

/-- `persistentFields()`: exactly DISP_LEN bytes, the display surface's own; nothing changes (R223; log 15). -/
def State.persistentFields (s : State) : List Byte := exactBytes s.cfg.dispLen s.surface

/-- The bytes the display surface holds are replaced by exactly DISP_LEN others. -/
def State.setSurface (s : State) (bytes : List Byte) : State := { s with surface := exactBytes s.cfg.dispLen bytes }

/-- `save()` (R217): no CORE state changes. -/
def State.save (s : State) : State :=
  if payload s.cfg ≤ s.cfg.saveCapacity then s.answer (.saved (s.saveImage ++ s.persistentFields)) else s.setFatal

/-- The 16-bit field at offset `k`, low byte first. -/
def bufferWord (buf : List Byte) (k : Nat) : Word := wordOfBytes (bufferByte buf (k + 1)) (bufferByte buf k)

/-- The three checks of R218 and R219: length, mode tag, depth. -/
def bufferAccepted (c : Config) (buf : List Byte) : Bool :=
  decide (payload c ≤ buf.length) && decide (bufferByte buf 4181 = 0 ∨ bufferByte buf 4181 = 1)
    && decide ((bufferByte buf 4180).toNat ≤ 32)

/-- The framebuffer after `restorePersistentFields(bytes)`: whatever the display surface makes of the bytes (R223;
log 15). -/
def State.restoredLit (s : State) (bytes : List Byte) : List Nat :=
  (List.range (s.cfg.displayWidth * s.cfg.displayHeight)).filter (Config.restoredPixel s.draws bytes)

/-- `restorePersistentFields(bytes)` (R223): the display surface takes exactly DISP_LEN bytes, so that
`persistentFields()` gives them back; with DISP_LEN = 0 a no-op. -/
def State.restorePersistentFields (s : State) (bytes : List Byte) : State :=
  if s.cfg.dispLen = 0 then s
  else State.setSurface { s with lit := s.restoredLit (exactBytes s.cfg.dispLen bytes), draws := s.draws + 1 } bytes

/-- The writes of R218 into MEM, the registers, the stack, MODE and the timers. -/
def State.restoreCore (s : State) (buf : List Byte) : State :=
  { s with
    mem := Memory.ofBytes (powerOnByte s.cfg) (bufferByte buf)
    pc := bufferWord buf 4096
    i := bufferWord buf 4098
    v := Vector.ofFn fun k => bufferByte buf (4100 + k.val)
    stack := Vector.ofFn fun k => bufferWord buf (4116 + 2 * k.val)
    sp := (bufferByte buf 4180).toNat
    mode := if bufferByte buf 4181 = 0 then .legacy else .extended
    timers := { s.timers with dt := bufferByte buf 4182, st := bufferByte buf 4183 } }

/-- All writes of R218, in its order. -/
def State.restoreFields (s : State) (buf : List Byte) : State :=
  (s.restoreCore buf).restorePersistentFields (buf.drop 4184)

/-- `restore(buf)` (R218): all checks precede all writes. -/
def State.restore (s : State) (buf : List Byte) : State :=
  if bufferAccepted s.cfg buf then (s.restoreFields buf).answer .proceed else s.setFatal

/-- `signal(s)` (R221). -/
def State.sendSignal (s : State) (sig : Signal) : State :=
  if s.timers.closed then s else { s with timers := { s.timers with queue := s.timers.queue ++ [sig] } }

/-- `disconnect()` (R222). -/
def State.disconnect (s : State) : State := { s with timers := { s.timers with closed := true } }

/-- One command of the host (R210 to R222), in a machine whose FATAL is clear. -/
def runCommand (s : State) : Command → State
  | .initCore => s.initCore.answer .proceed
  | .setProgramCounter addr => (s.setPc addr).answer .proceed
  | .setMode mode => State.answer { s with mode := mode } .proceed
  | .loadROM bytes => s.loadROM bytes
  | .save => s.save
  | .restore buf => s.restore buf
  | .signal sig => (s.sendSignal sig).answer .proceed
  | .disconnect => s.disconnect.answer .proceed

end Sys2Proof.Machine
end

