-- ==== Sys2Proof/Machine/TimerEngine.lean ====
section
/-! DEFINITION. The timer engine: Tick, signals, exit and disconnection (60_exceptions.md R256 to R258). -/

namespace Sys2Proof.Machine

/-- One decrement, floor-clamped at 0 (R256). -/
def countDown (b : Byte) : Byte := if b = 0 then 0 else b - 1

/-- Line 2 of Tick: both timers count down unless paused. -/
def Timers.decay (t : Timers) : Timers :=
  if t.paused then t else { t with dt := countDown t.dt, st := countDown t.st }

/-- What the Tick that consumes a signal does after dequeuing it (R256, R257). -/
def Timers.obey (t : Timers) : Signal → Timers
  | .pause => Timers.decay { t with paused := true }
  | .resume => Timers.decay { t with paused := false }
  | .exit => { t with exited := true }
  | .unknown => t.decay

/-- The body of Tick (R256) on the timer engine's own state. A Tick of an engine that has exited is not enabled and
changes nothing (log 18). -/
def Timers.tick (t : Timers) : Timers :=
  if t.exited then t
  else
    match t.queue with
    | sig :: rest => Timers.obey { t with queue := rest } sig
    | [] => if t.closed then { t with exited := true } else t.decay

/-- Tick (R256): nothing but the timer engine's state changes. With FATAL set it is not enabled and changes nothing
(R29). -/
def State.tick (s : State) : State := if s.fatal then s else { s with timers := s.timers.tick }

end Sys2Proof.Machine
end

