-- ==== Sys2Proof/Machine/Events.lean ====
section
/-! DEFINITION. The step frame of the interpreter engine (30_encoding.md R103), the event the machine performs next (00_scope.md R6, 60_exceptions.md R260) and what a driver finds after a Fail (R250). -/

namespace Sys2Proof.Machine

/-- One step of the interpreter engine (R103), its inputs already in the state: fetch bound, fetch, decode, then the
instruction's own checks and effect. -/
def interpret (s : State) : Result :=
  if 0x0FFE < s.pc.toNat then fail .fetchBound
  else
    match decode s.fetchWord with
    | .ok i => exec i s
    | .error _ => fail .decodeFailure

/-- The state a `step` starts its frame from: the environment's answers in place, `continue` as the answer to be
given (R215). -/
def State.beginStep (s : State) (inp : Inputs) : State := { s with inputs := inp, reply := .proceed }

/-- The host's `step` command as an event (R215): the frame, whose Fail is a fault (R250; log 11). -/
def runStep (s : State) (inp : Inputs) : Result := interpret (s.beginStep inp)

/-- Power-on reset as an event. The display is not cleared (R283) and its persistent fields are its own; the parameters,
the events to come and the counters of free values stay (log 20). -/
def State.powerCycle (s : State) : State :=
  { State.powerOn s.cfg with
    lit := s.lit, surface := s.surface, agenda := s.agenda, draws := s.draws, untilTick := s.untilTick }

/-- While FATAL is set no agent has a step and no command has any effect (R29, R210, R251). -/
def unlessFatal (s : State) (r : Result) : Result := if s.fatal then .next s else r

/-- One event, already taken off the agenda; only power-on reaches a machine whose FATAL is set. -/
def runEvent (s : State) : Event → Result
  | .step inp => unlessFatal s (runStep s inp)
  | .tick => .next s.tick
  | .command c => unlessFatal s (.next (runCommand s c))
  | .powerOn => .next s.powerCycle
  | .surface bytes => unlessFatal s (.next (s.setSurface bytes))

/-! ## The next event -/

/-- The answers of the environment when the agenda names none: free values (log 2). -/
def freeInputs (draw : Nat) : Inputs where
  random := Config.freeRandom draw
  keys := Config.freeKeys draw

/-- The machine's next event: the head of the agenda. With an empty agenda the run is free: a driver that keeps
stepping, a Tick after each of a free number of steps, so that Ticks keep occurring and none falls, or is kept from
falling, between two given steps (R260; log 1). -/
def State.nextEvent (s : State) : Event :=
  match s.agenda with
  | e :: _ => e
  | [] => if s.untilTick = 0 then .tick else .step (freeInputs s.draws)

/-- The state with its next event taken off. -/
def State.taken (s : State) : State :=
  match s.agenda with
  | _ :: rest => { s with agenda := rest }
  | [] =>
    { s with
      draws := s.draws + 1
      untilTick := if s.untilTick = 0 then Config.freeGap s.draws else s.untilTick - 1 }

/-- The machine performs its next event. With FATAL set and nothing to come it has stopped for good (R251; log 17). -/
def performNext (s : State) : Result :=
  if s.fatal && s.agenda.isEmpty then fail .fatalLatched else runEvent s.taken s.nextEvent

/-! ## Going on after a Fail -/

/-- The state after a step that failed: nothing has changed but that the event is past and the host was answered
`decodeFailure`, whatever the cause (R215, R250; log 11). -/
def State.afterFail (s : State) : State := s.taken.answer .decodeFailure

/-- The state a driver goes on from after the next event: after a Fail too, for R250 leaves it to the driver whether to
go on; a machine that has stopped for good stays as it is. -/
def driven (s : State) : State :=
  match performNext s with
  | .next t => t
  | .fault .fatalLatched => s
  | .fault .fetchBound | .fault .decodeFailure | .fault .memoryBound => s.afterFail
  | .refused _ => s

/-! ## Placing an instruction -/

/-- The address withFetchWord puts an instruction at: PC, or the program origin where PC admits no fetch. -/
def State.fetchAddress (s : State) : Word := if s.pc.toNat ≤ 0x0FFE then s.pc else BitVec.ofNat 16 programOrigin

/-- The agenda with a step at its head: as it is when its next event is a step already. -/
def State.stepNext (s : State) : List Event :=
  match s.agenda with
  | .step inp :: rest => .step inp :: rest
  | events => .step s.inputs :: events

/-- Stores an instruction word where the next step fetches, and makes the next event a step that fetches there
(log 16). -/
def State.placeInstruction (s : State) (w : Word) : State :=
  State.writeBytes { s with pc := s.fetchAddress, fatal := false, agenda := s.stepNext }
    s.fetchAddress.toNat [highByte w, lowByte w]

end Sys2Proof.Machine
end

