-- ==== Sys2Proof/Machine/Step.lean ====
section
/-! DEFINITION. One step of the whole machine, and placing an instruction where it fetches next. -/

namespace Sys2Proof.Machine

/-- The machine's step: its next atomic event (R6). -/
def step (s : State) : Host.Outcome State Fault Refusal := performNext s

/-- `s` with the instruction whose bits are `w` where the very next step fetches it. -/
def State.withFetchWord (s : State) (nbits w : Nat) : State := s.placeInstruction (tableWord nbits w)

end Sys2Proof.Machine
end

