-- ==== Sys2Proof/Safety.lean ====
section
/-! DEFINITION. What a good state and a safe run are, and the frame vocabulary the statements are written in. -/

namespace Sys2Proof.Machine

/-! ## Invariants -/

/-- The framebuffer's list form: strictly rising pixel numbers, all on the display (R122). -/
def litWf (c : Config) (lit : List Nat) : Bool :=
  decide (lit.Pairwise (· < ·)) && lit.all fun p => decide (p < c.displayWidth * c.displayHeight)

/-- The invariant every step keeps: SP is 0 to 32 (10_state.md R34), memory and framebuffer are in canonical form, the
display surface holds DISP_LEN persistent bytes (R223), the parameters meet R7. -/
def State.inv (s : State) : Bool :=
  decide (s.sp ≤ stackCapacity) && s.mem.wf (powerOnByte s.cfg) && litWf s.cfg s.lit && s.cfg.wf
    && decide (s.surface.length = s.cfg.dispLen)

/-! ## Runs -/

/-- One thing after another, stopping where the first does not answer a next state. -/
def andThen (r : Result) (f : State → Result) : Result :=
  match r with
  | .next t => f t
  | .fault c => .fault c
  | .refused c => .refused c

/-- `k` events, stopping at the first that does not answer a next state. -/
def runFor : Nat → State → Result
  | 0, s => .next s
  | k + 1, s => andThen (step s) (runFor k)

/-- `k` events under a driver that goes on after a Fail (R250). -/
def drive : Nat → State → State
  | 0, s => s
  | k + 1, s => drive k (driven s)

/-- `k` Ticks in a row. -/
def ticks : Nat → State → State
  | 0, s => s
  | k + 1, s => ticks k s.tick

/-- A safe run of `k` events: none stops with a fault, FATAL is never set (R250 and R251: neither is a final state). -/
def safeFor : Nat → State → Bool
  | 0, s => !s.fatal
  | k + 1, s =>
    !s.fatal && match step s with
      | .next t => safeFor k t
      | _ => false

/-- Applies a function to the next state of an answer. -/
def mapNext (f : State → State) (r : Result) : Result := andThen r fun t => .next (f t)

/-- The state in another mode. -/
def State.inMode (s : State) (m : Mode) : State := { s with mode := m }

/-! ## Frames: what is the same in `s` and `t` -/

/-- Every register but the listed ones. -/
def KeepsRegs (changed : List Reg) (s t : State) : Prop := ∀ r, r ∉ changed → t.getV r = s.getV r

/-- Every byte of memory. -/
def KeepsMem (s t : State) : Prop := ∀ a, t.readByte a = s.readByte a

/-- Every byte of memory outside `[a, a + k)`. -/
def KeepsMemOutside (a k : Nat) (s t : State) : Prop := ∀ b, b < a ∨ a + k ≤ b → t.readByte b = s.readByte b

/-- SP and every stack slot. -/
def KeepsStack (s t : State) : Prop := t.sp = s.sp ∧ t.stack = s.stack

/-- MODE, FATAL, the parameters, the display surface's persistent fields (log 15) and the model's own fields. -/
def KeepsControl (s t : State) : Prop :=
  t.mode = s.mode ∧ t.fatal = s.fatal ∧ t.cfg = s.cfg ∧ t.surface = s.surface ∧ t.inputs = s.inputs
    ∧ t.agenda = s.agenda ∧ t.draws = s.draws ∧ t.untilTick = s.untilTick ∧ t.reply = s.reply

/-- Everything but V, I, PC, memory, the timers and the stack. -/
def KeepsRest (s t : State) : Prop := t.lit = s.lit ∧ KeepsControl s t

/-- The frame of an instruction that writes only the listed registers and PC. -/
def OnlyRegs (changed : List Reg) (s t : State) : Prop :=
  KeepsRegs changed s t ∧ t.i = s.i ∧ KeepsMem s t ∧ KeepsStack s t ∧ t.timers = s.timers ∧ KeepsRest s t

/-- The frame of an instruction that writes only the listed registers, I and PC. -/
def OnlyRegsAndI (changed : List Reg) (s t : State) : Prop :=
  KeepsRegs changed s t ∧ KeepsMem s t ∧ KeepsStack s t ∧ t.timers = s.timers ∧ KeepsRest s t

/-- The frame of a store to `[a, a + k)`, which may also write PC; I is said apart. -/
def OnlyMem (a k : Nat) (s t : State) : Prop :=
  KeepsRegs [] s t ∧ KeepsMemOutside a k s t ∧ KeepsStack s t ∧ t.timers = s.timers ∧ KeepsRest s t

/-! ## Who may write what (10_state.md R20, R21) -/

/-- The registers an instruction names as its destination. -/
def writesReg : Instr → Reg → Bool
  | .ldImm x _, r | .addImm x _, r | .ldReg x _, r | .orReg x _, r | .andReg x _, r | .xorReg x _, r
  | .addReg x _, r | .subReg x _, r | .shr x _, r | .subnReg x _, r | .shl x _, r | .rnd x _, r | .ldFromDT x, r
  | .waitKey x, r => r == x
  | .loadRegs x, r => decide (r ≤ x)
  | .cls, _ | .ret, _ | .jp _, _ | .call _, _ | .seImm _ _, _ | .sneImm _ _, _ | .seReg _ _, _ | .sneReg _ _, _
  | .ldI _, _ | .jpOffset _, _ | .drw _ _ _, _ | .skp _, _ | .sknp _, _ | .setDT _, _ | .setST _, _ | .addI _, _
  | .ldFont _, _ | .bcd _, _ | .storeRegs _, _ => false

/-- The seven instructions that write a flag to VF (R21, R285). -/
def writesFlag : Instr → Bool
  | .addReg _ _ | .subReg _ _ | .subnReg _ _ | .shr _ _ | .shl _ _ | .drw _ _ _ | .addI _ => true
  | .cls | .ret | .jp _ | .call _ | .seImm _ _ | .sneImm _ _ | .seReg _ _ | .ldImm _ _ | .addImm _ _ | .ldReg _ _
  | .orReg _ _ | .andReg _ _ | .xorReg _ _ | .sneReg _ _ | .ldI _ | .jpOffset _ | .rnd _ _ | .skp _ | .sknp _
  | .ldFromDT _ | .waitKey _ | .setDT _ | .setST _ | .ldFont _ | .bcd _ | .storeRegs _ | .loadRegs _ => false

/-- The instructions whose meaning depends on MODE (R25, R98). -/
def readsMode : Instr → Bool
  | .shr _ _ | .shl _ _ | .jpOffset _ | .storeRegs _ | .loadRegs _ => true
  | .cls | .ret | .jp _ | .call _ | .seImm _ _ | .sneImm _ _ | .seReg _ _ | .ldImm _ _ | .addImm _ _ | .ldReg _ _
  | .orReg _ _ | .andReg _ _ | .xorReg _ _ | .addReg _ _ | .subReg _ _ | .subnReg _ _ | .sneReg _ _ | .ldI _
  | .rnd _ _ | .drw _ _ _ | .skp _ | .sknp _ | .ldFromDT _ | .waitKey _ | .setDT _ | .setST _ | .addI _ | .ldFont _
  | .bcd _ => false

/-- The timer access instructions (R203). -/
def touchesTimers : Instr → Bool
  | .ldFromDT _ | .setDT _ | .setST _ => true
  | .cls | .ret | .jp _ | .call _ | .seImm _ _ | .sneImm _ _ | .seReg _ _ | .ldImm _ _ | .addImm _ _ | .ldReg _ _
  | .orReg _ _ | .andReg _ _ | .xorReg _ _ | .addReg _ _ | .subReg _ _ | .shr _ _ | .subnReg _ _ | .shl _ _
  | .sneReg _ _ | .ldI _ | .jpOffset _ | .rnd _ _ | .drw _ _ _ | .skp _ | .sknp _ | .waitKey _ | .addI _ | .ldFont _
  | .bcd _ | .storeRegs _ | .loadRegs _ => false

/-- The instructions that may change I (R176). -/
def writesI : Instr → Bool
  | .ldI _ | .addI _ | .ldFont _ | .storeRegs _ | .loadRegs _ => true
  | .cls | .ret | .jp _ | .call _ | .seImm _ _ | .sneImm _ _ | .seReg _ _ | .ldImm _ _ | .addImm _ _ | .ldReg _ _
  | .orReg _ _ | .andReg _ _ | .xorReg _ _ | .addReg _ _ | .subReg _ _ | .shr _ _ | .subnReg _ _ | .shl _ _
  | .sneReg _ _ | .jpOffset _ | .rnd _ _ | .drw _ _ _ | .skp _ | .sknp _ | .ldFromDT _ | .waitKey _ | .setDT _
  | .setST _ | .bcd _ => false

/-- How many bytes an instruction stores from I on: three by Fx33, x + 1 by Fx55, none by any other (R60, R67). -/
def storedBytes : Instr → Nat
  | .bcd _ => 3
  | .storeRegs x => x.val + 1
  | .cls | .ret | .jp _ | .call _ | .seImm _ _ | .sneImm _ _ | .seReg _ _ | .ldImm _ _ | .addImm _ _ | .ldReg _ _
  | .orReg _ _ | .andReg _ _ | .xorReg _ _ | .addReg _ _ | .subReg _ _ | .shr _ _ | .subnReg _ _ | .shl _ _
  | .sneReg _ _ | .ldI _ | .jpOffset _ | .rnd _ _ | .drw _ _ _ | .skp _ | .sknp _ | .ldFromDT _ | .waitKey _
  | .setDT _ | .setST _ | .addI _ | .ldFont _ | .loadRegs _ => 0

/-- The instructions whose PC effect is not the default advance (R138). -/
def steersPc : Instr → Bool
  | .ret | .jp _ | .call _ | .seImm _ _ | .sneImm _ _ | .seReg _ _ | .sneReg _ _ | .jpOffset _ | .skp _ | .sknp _
  | .waitKey _ => true
  | .cls | .ldImm _ _ | .addImm _ _ | .ldReg _ _ | .orReg _ _ | .andReg _ _ | .xorReg _ _ | .addReg _ _ | .subReg _ _
  | .shr _ _ | .subnReg _ _ | .shl _ _ | .ldI _ | .rnd _ _ | .drw _ _ _ | .ldFromDT _ | .setDT _ | .setST _ | .addI _
  | .ldFont _ | .bcd _ | .storeRegs _ | .loadRegs _ => false

/-- The bit a sprite has at a pixel of the display: the pixel lies in the 8 x n box at the start coordinate reduced
modulo the display size, and bit 7 - (column - start) of the row's byte is set (R121). -/
def spriteBit (x y : Reg) (n : Nat) (s : State) (col row : Nat) : Bool :=
  let x0 := (s.getV x).toNat % s.cfg.displayWidth
  let y0 := (s.getV y).toNat % s.cfg.displayHeight
  decide (x0 ≤ col ∧ col < x0 + 8 ∧ y0 ≤ row ∧ row < y0 + n)
    && (s.readByte (s.i.toNat + (row - y0))).getLsbD (7 - (col - x0))

end Sys2Proof.Machine
end

