-- ==== Sys2Proof/Certificates/Slice0/Obligations.lean ====
section
/-! DEFINITION. The statements for the provers, in the order of the spec's files. Each docstring names the rules it formalises; "rests on Dn" names a decision of 92_eei_decisions.md the spec marks as its own, "log n" a log entry of the model. -/

open Sys2Proof Sys2Proof.Machine

/-! ## Encoding (30_encoding.md) -/

/-- R91 to R96: words written out from the opcode map decode to the instruction they stand for, illegal neighbours to
none (that 5121, whose last digit is not 0, is illegal rests on D8). -/
def Obligations.SampleWordsDecode : Prop :=
  decode 0b0000000011100000#16 = .ok .cls ∧
  decode 0b0001101010111100#16 = .ok (.jp 0xABC) ∧
  decode 0b0011010101000100#16 = .ok (.seImm 5 0x44) ∧
  decode 0b1000111100011110#16 = .ok (.shl 15 1) ∧
  decode 0b1011001111110000#16 = .ok (.jpOffset 0x3F0) ∧
  decode 0b1100000000001111#16 = .ok (.rnd 0 0x0F) ∧
  decode 0b1101000000010010#16 = .ok (.drw 0 1 2) ∧
  decode 0b1110000110100001#16 = .ok (.sknp 1) ∧
  decode 0b1111001001100101#16 = .ok (.loadRegs 2) ∧
  decode 0b1111000100010101#16 = .ok (.setDT 1) ∧
  decode 0b0101000100100001#16 = .error .illegalWord ∧
  decode 0b1000000000001000#16 = .error .illegalWord

/-- R91 to R95: no operand of any instruction is lost by its encoding. -/
def Obligations.DecodeOfEncodeIsIdentity : Prop :=
  ∀ i : Instr, i.wellFormed = true → decode (encode i) = .ok i

/-- R94, R95 (rests on D8, by which every fixed digit must match): an instruction has one word only, the one it encodes
to, and every decoded instruction is well-formed. -/
def Obligations.EncodeOfDecodeIsIdentity : Prop :=
  ∀ (op : Word) (i : Instr), decode op = .ok i → i.wellFormed = true ∧ encode i = op

/-- R94 and R95 (rests on D8): decoding follows the map of masks and matches. The rows are pairwise disjoint, a decoded
word matches its instruction's row, and a word a row applies to decodes to an instruction of that row. -/
def Obligations.DecodeFollowsOpcodeMap : Prop :=
  (opcodeMap.Pairwise fun r q => ∀ op : Word, ¬ (rowApplies op r = true ∧ rowApplies op q = true)) ∧
  ∀ op : Word,
    (∀ i, decode op = .ok i → i.row ∈ opcodeMap ∧ rowApplies op i.row = true) ∧
    (∀ r ∈ opcodeMap, rowApplies op r = true → ∃ i, decode op = .ok i ∧ i.row = r)

/-- R96 (rests on D8): the illegal words are exactly those of the table, family by family. -/
def Obligations.IllegalWordsAreTheListedOnes : Prop :=
  ∀ op : Word, decode op = .error .illegalWord ↔
    (op.toNat / 4096 = 0 ∧ op.toNat ≠ 0x00E0 ∧ op.toNat ≠ 0x00EE) ∨
    (op.toNat / 4096 = 5 ∧ op.toNat % 16 ≠ 0) ∨
    (op.toNat / 4096 = 8 ∧ op.toNat % 16 ∈ [8, 9, 0xA, 0xB, 0xC, 0xD, 0xF]) ∨
    (op.toNat / 4096 = 9 ∧ op.toNat % 16 ≠ 0) ∨
    (op.toNat / 4096 = 0xE ∧ op.toNat % 256 ∉ [0x9E, 0xA1]) ∨
    (op.toNat / 4096 = 0xF ∧ op.toNat % 256 ∉ [0x07, 0x0A, 0x15, 0x18, 0x1E, 0x29, 0x33, 0x55, 0x65])

/-! ## Register load and ALU (42_alu.md) -/

/-- R150, R151, R152: 6xnn, 7xnn and 8xy0 complete in every state, give `V[x]` its value (a sum modulo 256), write no
flag beyond `V[x]` and nothing else. -/
def Obligations.LoadAddCopyWriteOneRegister : Prop :=
  ∀ (x y : Reg) (nn : Byte) (s : State),
    (∃ t, exec (.ldImm x nn) s = .next t ∧ t.getV x = nn ∧ t.pc = s.pc + 2 ∧ OnlyRegs [x] s t) ∧
    (∃ t, exec (.addImm x nn) s = .next t ∧ (t.getV x).toNat = ((s.getV x).toNat + nn.toNat) % 256 ∧
      t.pc = s.pc + 2 ∧ OnlyRegs [x] s t) ∧
    (∃ t, exec (.ldReg x y) s = .next t ∧ t.getV x = s.getV y ∧ t.pc = s.pc + 2 ∧ OnlyRegs [x] s t)

/-- R153, R154, R155 (rests on D1: no flag): the logic instructions complete in every state, bit by bit, and write
nothing but `V[x]`. -/
def Obligations.LogicWritesOneRegister : Prop :=
  ∀ (x y : Reg) (s : State),
    (∃ t, exec (.orReg x y) s = .next t ∧
      (∀ k, (t.getV x).getLsbD k = ((s.getV x).getLsbD k || (s.getV y).getLsbD k)) ∧
      t.pc = s.pc + 2 ∧ OnlyRegs [x] s t) ∧
    (∃ t, exec (.andReg x y) s = .next t ∧
      (∀ k, (t.getV x).getLsbD k = ((s.getV x).getLsbD k && (s.getV y).getLsbD k)) ∧
      t.pc = s.pc + 2 ∧ OnlyRegs [x] s t) ∧
    (∃ t, exec (.xorReg x y) s = .next t ∧
      (∀ k, (t.getV x).getLsbD k = ((s.getV x).getLsbD k ^^ (s.getV y).getLsbD k)) ∧
      t.pc = s.pc + 2 ∧ OnlyRegs [x] s t)

/-- R156, R162 (rests on D2): 8xy4 completes in every state; the sum wraps, VF is the carry, and with x = 0xF VF holds
the carry. -/
def Obligations.AddSetsCarry : Prop :=
  ∀ (x y : Reg) (s : State), ∃ t, exec (.addReg x y) s = .next t ∧
    (x ≠ vf → (t.getV x).toNat = ((s.getV x).toNat + (s.getV y).toNat) % 256) ∧
    (t.getV vf).toNat = (if 255 < (s.getV x).toNat + (s.getV y).toNat then 1 else 0) ∧
    t.pc = s.pc + 2 ∧ OnlyRegs [x, vf] s t

/-- R157, R159, R161, R162 (rests on D2, D3): 8xy5 and 8xy7 complete in every state; the difference wraps, VF is 1
exactly when no borrow occurs, equal operands not borrowing. -/
def Obligations.SubtractsSetNotBorrow : Prop :=
  ∀ (x y : Reg) (s : State),
    (∃ t, exec (.subReg x y) s = .next t ∧
      (x ≠ vf → (t.getV x).toNat = ((s.getV x).toNat + 256 - (s.getV y).toNat) % 256) ∧
      (t.getV vf).toNat = (if (s.getV y).toNat ≤ (s.getV x).toNat then 1 else 0) ∧
      t.pc = s.pc + 2 ∧ OnlyRegs [x, vf] s t) ∧
    (∃ t, exec (.subnReg x y) s = .next t ∧
      (x ≠ vf → (t.getV x).toNat = ((s.getV y).toNat + 256 - (s.getV x).toNat) % 256) ∧
      (t.getV vf).toNat = (if (s.getV x).toNat ≤ (s.getV y).toNat then 1 else 0) ∧
      t.pc = s.pc + 2 ∧ OnlyRegs [x, vf] s t)

/-- R158, R162 (rests on D2): 8xy6 completes in every state; it halves `V[y]` in Legacy mode and `V[x]` in Extended mode
into `V[x]`, and VF is the bit shifted out. -/
def Obligations.ShiftRightFollowsMode : Prop :=
  ∀ (x y : Reg) (s : State), ∃ t, exec (.shr x y) s = .next t ∧
    (s.mode = .legacy → (x ≠ vf → (t.getV x).toNat = (s.getV y).toNat / 2) ∧
      (t.getV vf).toNat = (s.getV y).toNat % 2) ∧
    (s.mode = .extended → (x ≠ vf → (t.getV x).toNat = (s.getV x).toNat / 2) ∧
      (t.getV vf).toNat = (s.getV x).toNat % 2) ∧
    t.pc = s.pc + 2 ∧ OnlyRegs [x, vf] s t

/-- R160, R162 (rests on D2): 8xyE completes in every state; it doubles the mode's source modulo 256 into `V[x]`, and VF
is bit 7 of the source. -/
def Obligations.ShiftLeftFollowsMode : Prop :=
  ∀ (x y : Reg) (s : State), ∃ t, exec (.shl x y) s = .next t ∧
    (s.mode = .legacy → (x ≠ vf → (t.getV x).toNat = (s.getV y).toNat * 2 % 256) ∧
      (t.getV vf).toNat = (s.getV y).toNat / 128) ∧
    (s.mode = .extended → (x ≠ vf → (t.getV x).toNat = (s.getV x).toNat * 2 % 256) ∧
      (t.getV vf).toNat = (s.getV x).toNat / 128) ∧
    t.pc = s.pc + 2 ∧ OnlyRegs [x, vf] s t

/-! ## Index register and memory (43_index_memory.md, 20_memory.md) -/

/-- R170: Annn completes in every state, sets I to nnn and writes nothing else; no word gives I more than 0x0FFF. -/
def Obligations.LoadIndexSetsI : Prop :=
  ∀ (nnn : Word) (s : State), ∃ t, exec (.ldI nnn) s = .next t ∧ t.i = nnn ∧
    (∀ op : Word, decode op = .ok (.ldI nnn) → t.i.toNat ≤ 0x0FFF) ∧ t.pc = s.pc + 2 ∧ OnlyRegsAndI [] s t

/-- R171 (rests on D2, D10): Fx1E completes in every state; the sum wraps at 16 bits, and VF is 1 exactly when the sum
carries out of 16 bits or its 16-bit value exceeds 0x0FFF. -/
def Obligations.AddIndexSetsRangeFlag : Prop :=
  ∀ (x : Reg) (s : State), ∃ t, exec (.addI x) s = .next t ∧
    t.i.toNat = (s.i.toNat + (s.getV x).toNat) % 65536 ∧
    (t.getV vf).toNat =
      (if 65535 < s.i.toNat + (s.getV x).toNat ∨ 0x0FFF < (s.i.toNat + (s.getV x).toNat) % 65536 then 1 else 0) ∧
    t.pc = s.pc + 2 ∧ OnlyRegsAndI [vf] s t

/-- R172: Fx29 completes, whatever the parameters are; I becomes FONT_BASE + 5 times the low nibble of `V[x]`, below
0x200. -/
def Obligations.FontGlyphAddress : Prop :=
  ∀ (x : Reg) (s : State), s.cfg.wf = true → ∃ t, exec (.ldFont x) s = .next t ∧
    t.i.toNat = s.cfg.fontBase.toNat + 5 * ((s.getV x).toNat % 16) ∧
    t.i.toNat ≤ s.cfg.fontBase.toNat + 75 ∧ t.i.toNat < 0x200 ∧
    t.pc = s.pc + 2 ∧ OnlyRegsAndI [] s t

/-- R173, R65 (rests on D6): Fx33 completes when I + 3 <= 4096 and stores the hundreds, tens and ones of `V[x]` at I,
I + 1, I + 2 and nothing else; I is unchanged. The invariant is the one EveryStepKeepsInvariant states. -/
def Obligations.BcdStoresThreeDigits : Prop :=
  ∀ (x : Reg) (s : State), s.inv = true → s.i.toNat + 3 ≤ 4096 → ∃ t, exec (.bcd x) s = .next t ∧
    (t.readByte s.i.toNat).toNat = (s.getV x).toNat / 100 ∧
    (t.readByte (s.i.toNat + 1)).toNat = (s.getV x).toNat / 10 % 10 ∧
    (t.readByte (s.i.toNat + 2)).toNat = (s.getV x).toNat % 10 ∧
    t.i = s.i ∧ t.pc = s.pc + 2 ∧ OnlyMem s.i.toNat 3 s t

/-- R174, R65 (rests on D6, D35): Fx55 completes when I + x + 1 <= 4096 and stores V[0] to V[x] from I upward and
nothing else; I advances by x + 1 in Legacy mode only. -/
def Obligations.StoreRegistersAtI : Prop :=
  ∀ (x : Reg) (s : State), s.inv = true → s.i.toNat + x.val + 1 ≤ 4096 → ∃ t, exec (.storeRegs x) s = .next t ∧
    (∀ k : Reg, k ≤ x → t.readByte (s.i.toNat + k.val) = s.getV k) ∧
    (s.mode = .legacy → t.i.toNat = s.i.toNat + x.val + 1) ∧ (s.mode = .extended → t.i = s.i) ∧
    t.pc = s.pc + 2 ∧ OnlyMem s.i.toNat (x.val + 1) s t

/-- R175 (rests on D6, D11, D35): Fx65 completes when I + x + 1 <= 4096 and loads V[0] to V[x] from I upward; the
registers above x and all of memory keep their values; I advances by x + 1 in Legacy mode only. -/
def Obligations.LoadRegistersFromI : Prop :=
  ∀ (x : Reg) (s : State), s.i.toNat + x.val + 1 ≤ 4096 → ∃ t, exec (.loadRegs x) s = .next t ∧
    (∀ k : Reg, k ≤ x → t.getV k = s.readByte (s.i.toNat + k.val)) ∧ (∀ k : Reg, x < k → t.getV k = s.getV k) ∧
    (s.mode = .legacy → t.i.toNat = s.i.toNat + x.val + 1) ∧ (s.mode = .extended → t.i = s.i) ∧
    t.pc = s.pc + 2 ∧ KeepsMem s t ∧ KeepsStack s t ∧ t.timers = s.timers ∧ KeepsRest s t

/-- R63, R242 (rests on D6, D11, and on D10 for Fx1E, which never fails): the four instructions that access [I, I + k)
fault with MemoryBound exactly when that range leaves memory, an empty sprite never (log 12); no other instruction ever
faults. -/
def Obligations.OutOfRangeAccessFaults : Prop :=
  ∀ (i : Instr) (s : State) (c : Fault), exec i s = .fault c ↔ c = .memoryBound ∧
    ((∃ x, i = .bcd x ∧ 4096 < s.i.toNat + 3) ∨
     (∃ x : Reg, i = .storeRegs x ∧ 4096 < s.i.toNat + x.val + 1) ∨
     (∃ x : Reg, i = .loadRegs x ∧ 4096 < s.i.toNat + x.val + 1) ∨
     (∃ x y n, i = .drw x y n ∧ 0 < n ∧ 4096 < s.i.toNat + n))

/-- R64, R65, R73: two bytes Fx55 stores are, high byte first, the instruction word a fetch at their address reads at
once. -/
def Obligations.StoredBytesAreFetchedNext : Prop :=
  ∀ (x : Reg) (s t : State), s.inv = true → 1 ≤ x.val → exec (.storeRegs x) s = .next t →
    (t.setPc s.i).fetchWord.toNat = 256 * (s.getV 0).toNat + (s.getV 1).toNat

/-! ## Display (40_display.md) -/

/-- R120: 00E0 completes in every state, turns every pixel off and changes nothing else but PC. -/
def Obligations.ClearTurnsEveryPixelOff : Prop :=
  ∀ s : State, ∃ t, exec .cls s = .next t ∧ (∀ col row, t.pixelLit col row = false) ∧ t.pc = s.pc + 2 ∧
    KeepsRegs [] s t ∧ t.i = s.i ∧ KeepsMem s t ∧ KeepsStack s t ∧ t.timers = s.timers ∧ KeepsControl s t

/-- R121, R122 (rests on D11, D13, D14; n = 0 passes, log 12): Dxyn completes when its rows lie in memory; every pixel of
the display is inverted exactly where the sprite has a set bit, without wrapping, and VF is 1 exactly when a lit pixel
was turned off, else 0. -/
def Obligations.DrawTogglesSpritePixels : Prop :=
  ∀ (x y : Reg) (n : Nat) (s : State), s.inv = true → (n = 0 ∨ s.i.toNat + n ≤ 4096) →
    ∃ t, exec (.drw x y n) s = .next t ∧
      (∀ col row, col < s.cfg.displayWidth → row < s.cfg.displayHeight →
        t.pixelLit col row = (s.pixelLit col row ^^ spriteBit x y n s col row)) ∧
      (t.getV vf = 1 ↔ ∃ col row, col < s.cfg.displayWidth ∧ row < s.cfg.displayHeight ∧
        spriteBit x y n s col row = true ∧ s.pixelLit col row = true) ∧
      (t.getV vf = 0 ∨ t.getV vf = 1) ∧
      t.pc = s.pc + 2 ∧ KeepsRegs [vf] s t ∧ t.i = s.i ∧ KeepsMem s t ∧ KeepsStack s t ∧ t.timers = s.timers ∧
      KeepsControl s t

/-- R121 corner case (e), the source's E7: drawing the same sprite twice restores the framebuffer, and after a first
draw without collision the second reports one exactly when the sprite has a set bit inside the clip. -/
def Obligations.DrawingTwiceRestoresDisplay : Prop :=
  ∀ (x y : Reg) (n : Nat) (s t : State), s.inv = true → x ≠ vf → y ≠ vf → exec (.drw x y n) s = .next t →
    ∃ u, exec (.drw x y n) t = .next u ∧ u.lit = s.lit ∧
      (t.getV vf = 0 → (u.getV vf = 1 ↔ ∃ col row, col < s.cfg.displayWidth ∧ row < s.cfg.displayHeight ∧
        spriteBit x y n s col row = true))

/-! ## Control transfer (41_control_flow.md) -/

/-- R131: 1nnn completes in every state, sets PC to nnn and changes nothing else. -/
def Obligations.JumpSetsPc : Prop :=
  ∀ (nnn : Word) (s : State), ∃ t, exec (.jp nnn) s = .next t ∧ t.pc = nnn ∧ OnlyRegs [] s t

/-- R132, R24 (rests on D4, D5): 2nnn completes while fewer than 32 addresses are held; it pushes PC + 2 into slot SP,
keeps the other slots and jumps. -/
def Obligations.CallPushesReturnAddress : Prop :=
  ∀ (nnn : Word) (s : State), s.sp < 32 → ∃ t, exec (.call nnn) s = .next t ∧
    t.slot s.sp = s.pc + 2 ∧ (∀ k, k ≠ s.sp → t.slot k = s.slot k) ∧ t.sp = s.sp + 1 ∧ t.pc = nnn ∧
    KeepsRegs [] s t ∧ t.i = s.i ∧ KeepsMem s t ∧ t.timers = s.timers ∧ KeepsRest s t

/-- R130, R24 (rests on D4, D5): 00EE completes while an address is held; PC becomes the newest one, with no further
advance, SP falls by one and no slot changes. With SP = 32 that is slot 31, where vector CF9 says otherwise (log 25); with
SP above 32, which no event reaches, it is a slot that does not exist (log 19). -/
def Obligations.ReturnPopsAddress : Prop :=
  ∀ s : State, 0 < s.sp → ∃ t, exec .ret s = .next t ∧ t.pc = s.slot (s.sp - 1) ∧ t.sp + 1 = s.sp ∧
    t.stack = s.stack ∧ KeepsRegs [] s t ∧ t.i = s.i ∧ KeepsMem s t ∧ t.timers = s.timers ∧ KeepsRest s t

/-- R244, R245, R251 (rests on D6 and D29; that Fatal is a next state: log 17): a call with 32 addresses held and a
return with none take the fatal exception before anything changes: FATAL is set and nothing else of the CORE changes,
PC and the stack included. What the host is answered (the model's field `reply`, log 13) is left open here. -/
def Obligations.StackExhaustionSetsFatalOnly : Prop :=
  ∀ (i : Instr) (s : State), ((∃ nnn, i = .call nnn) ∧ s.sp = 32) ∨ (i = .ret ∧ s.sp = 0) →
    ∃ t, exec i s = .next t ∧ t = { s with fatal := true, reply := t.reply }

/-- The source's E3 (R130, R132; rests on D4, D5, at 32 addresses held on log 25): after a call, a return taken from any state with the call's SP and
stack goes to the instruction after the call. -/
def Obligations.CallThenReturnResumesAfterCall : Prop :=
  ∀ (nnn : Word) (s : State), s.sp < 32 → ∃ t, exec (.call nnn) s = .next t ∧
    ∀ r : State, r.sp = t.sp → r.stack = t.stack →
      ∃ u, exec .ret r = .next u ∧ u.pc = s.pc + 2 ∧ u.sp = s.sp ∧ ∀ k < s.sp, u.slot k = s.slot k

/-- R133, R134: 3xnn and 4xnn complete in every state; PC advances by 4 exactly when the condition holds, else by 2,
and nothing else changes. -/
def Obligations.ImmediateSkipsMovePc : Prop :=
  ∀ (x : Reg) (nn : Byte) (s : State),
    (∃ t, exec (.seImm x nn) s = .next t ∧ OnlyRegs [] s t ∧
      t.pc = if (s.getV x).toNat = nn.toNat then s.pc + 4 else s.pc + 2) ∧
    (∃ t, exec (.sneImm x nn) s = .next t ∧ OnlyRegs [] s t ∧
      t.pc = if (s.getV x).toNat ≠ nn.toNat then s.pc + 4 else s.pc + 2)

/-- R135, R136: 5xy0 and 9xy0 complete in every state; PC advances by 4 exactly when the condition holds, else by 2, and
nothing else changes. -/
def Obligations.RegisterSkipsMovePc : Prop :=
  ∀ (x y : Reg) (s : State),
    (∃ t, exec (.seReg x y) s = .next t ∧ OnlyRegs [] s t ∧
      t.pc = if (s.getV x).toNat = (s.getV y).toNat then s.pc + 4 else s.pc + 2) ∧
    (∃ t, exec (.sneReg x y) s = .next t ∧ OnlyRegs [] s t ∧
      t.pc = if (s.getV x).toNat ≠ (s.getV y).toNat then s.pc + 4 else s.pc + 2)

/-- R137 (rests on D9): Bnnn completes in every state; PC becomes the whole sum of nnn and V0 in Legacy mode, of nnn and
the register nnn[11:8] names in Extended mode, and nothing else changes. -/
def Obligations.JumpWithOffsetFollowsMode : Prop :=
  ∀ (nnn : Word) (s : State), nnn.toNat < 0x1000 → ∃ t, exec (.jpOffset nnn) s = .next t ∧
    (s.mode = .legacy → t.pc.toNat = nnn.toNat + (s.getV 0).toNat) ∧
    (s.mode = .extended → ∀ r : Reg, r.val = nnn.toNat / 256 → t.pc.toNat = nnn.toNat + (s.getV r).toNat) ∧
    OnlyRegs [] s t

/-! ## Random, keypad and timer access (44_random_keypad.md, 45_timer_instructions.md) -/

/-- R190: Cxnn completes in every state, whatever byte the environment answers; `V[x]` is that byte masked by nn and
nothing else changes. -/
def Obligations.RandomByteIsMasked : Prop :=
  ∀ (x : Reg) (nn : Byte) (s : State), ∃ t, exec (.rnd x nn) s = .next t ∧
    (∀ k, (t.getV x).getLsbD k = (s.inputs.random.getLsbD k && nn.getLsbD k)) ∧
    t.pc = s.pc + 2 ∧ OnlyRegs [x] s t

/-- R191, R192 (rests on D12): Ex9E and ExA1 complete in every state, whatever keys are down; the key is the low nibble
of `V[x]`. -/
def Obligations.KeySkipsMovePc : Prop :=
  ∀ (x : Reg) (k : Key) (s : State), k.val = (s.getV x).toNat % 16 →
    (∃ t, exec (.skp x) s = .next t ∧ OnlyRegs [] s t ∧
      t.pc = if k ∈ s.inputs.keys then s.pc + 4 else s.pc + 2) ∧
    (∃ t, exec (.sknp x) s = .next t ∧ OnlyRegs [] s t ∧
      t.pc = if k ∈ s.inputs.keys then s.pc + 2 else s.pc + 4)

/-- R193, R194 (rests on D16): Fx0A completes in every state; with no key down nothing at all changes, with keys down
`V[x]` is one that is down, the first of them (log 3), and PC advances. -/
def Obligations.WaitKeyTakesAPressedKey : Prop :=
  ∀ (x : Reg) (s : State), ∃ t, exec (.waitKey x) s = .next t ∧
    (s.inputs.keys = [] → t = s) ∧
    (s.inputs.keys ≠ [] → t.pc = s.pc + 2 ∧ ∃ k ∈ s.inputs.keys, s.inputs.keys.head? = some k ∧
      (t.getV x).toNat = k.val) ∧
    OnlyRegs [x] s t

/-- R200, R201: Fx07 and Fx15 complete in every state, whether the timer engine runs, is paused or has exited; `V[x]`
is DT, respectively DT is `V[x]`, and nothing else changes. -/
def Obligations.DelayTimerReadAndSet : Prop :=
  ∀ (x : Reg) (s : State),
    (∃ t, exec (.ldFromDT x) s = .next t ∧ t.getV x = s.timers.dt ∧ t.pc = s.pc + 2 ∧ OnlyRegs [x] s t) ∧
    (∃ t, exec (.setDT x) s = .next t ∧ t.timers.dt = s.getV x ∧ t.timers = { s.timers with dt := t.timers.dt } ∧
      t.pc = s.pc + 2 ∧ KeepsRegs [] s t ∧ t.i = s.i ∧ KeepsMem s t ∧ KeepsStack s t ∧ KeepsRest s t)

/-- R202 (rests on D32 for what ST drives): Fx18 completes in every state; ST is `V[x]`, nothing else changes. -/
def Obligations.SoundTimerSet : Prop :=
  ∀ (x : Reg) (s : State), ∃ t, exec (.setST x) s = .next t ∧ t.timers.st = s.getV x ∧
    t.timers = { s.timers with st := t.timers.st } ∧
    t.pc = s.pc + 2 ∧ KeepsRegs [] s t ∧ t.i = s.i ∧ KeepsMem s t ∧ KeepsStack s t ∧ KeepsRest s t

/-! ## Whole-machine rules over all instructions -/

/-- R25, R31: no instruction writes MODE, the parameters, the environment's answers, the events to come, the counters of
free values or the display surface's persistent fields (log 15). -/
def Obligations.NoInstructionWritesModeOrEnvironment : Prop :=
  ∀ (i : Instr) (s t : State), exec i s = .next t →
    t.mode = s.mode ∧ t.cfg = s.cfg ∧ t.inputs = s.inputs ∧ t.agenda = s.agenda ∧ t.draws = s.draws ∧
    t.untilTick = s.untilTick ∧ t.surface = s.surface

/-- R98, R25: every instruction but 8xy6, 8xyE, Bnnn, Fx55 and Fx65 does the same in either mode. -/
def Obligations.ModeMattersToFiveInstructionsOnly : Prop :=
  ∀ (i : Instr) (s : State) (m : Mode), readsMode i = false → exec i (s.inMode m) = mapNext (·.inMode m) (exec i s)

/-- R21, R285, R11 (rests on D1): an instruction changes only the registers it names as destination, and VF only if it
is one of the seven that write a flag. -/
def Obligations.RegistersChangeOnlyWhereNamed : Prop :=
  ∀ (i : Instr) (s t : State) (r : Reg), exec i s = .next t → writesReg i r = false →
    (writesFlag i = true → r ≠ vf) → t.getV r = s.getV r

/-- R176, R24 (rests on D5): I changes only by Annn, Fx1E, Fx29 and, in Legacy mode, Fx55 and Fx65; the stack slots only
by 2nnn, SP only by 2nnn and 00EE. -/
def Obligations.IndexAndStackChangeOnlyWhereNamed : Prop :=
  ∀ (i : Instr) (s t : State), exec i s = .next t →
    (writesI i = false → t.i = s.i) ∧ (readsMode i = true → s.mode = .extended → t.i = s.i) ∧
    ((∀ nnn, i ≠ .call nnn) → t.stack = s.stack) ∧ ((∀ nnn, i ≠ .call nnn) → i ≠ .ret → t.sp = s.sp)

/-- R60, R67: an instruction changes no byte of memory outside [I, I + k), k the number of bytes it stores: 3 for Fx33,
x + 1 for Fx55, none for any other. -/
def Obligations.MemoryChangesOnlyWhereStored : Prop :=
  ∀ (i : Instr) (s t : State), s.inv = true → exec i s = .next t → KeepsMemOutside s.i.toNat (storedBytes i) s t

/-- R203: no instruction but Fx15 and Fx18 writes the timers, Fx07 included; Fx15 writes DT alone and Fx18 ST alone, so
that none touches the timer engine's control state. -/
def Obligations.TimersChangeOnlyWhereNamed : Prop :=
  ∀ (i : Instr) (s t : State), exec i s = .next t →
    ((∀ x, i ≠ .setDT x) → (∀ x, i ≠ .setST x) → t.timers = s.timers) ∧
    (∀ x, i = .setDT x → t.timers = { s.timers with dt := t.timers.dt }) ∧
    (∀ x, i = .setST x → t.timers = { s.timers with st := t.timers.st })

/-- R138, R103: every instruction not in the table's first rows leaves PC + 2 after Continue. -/
def Obligations.OtherInstructionsAdvancePcByTwo : Prop :=
  ∀ (i : Instr) (s t : State), steersPc i = false → exec i s = .next t → t.pc = s.pc + 2

/-- R240, R244, R245, R251 (rests on D6 and the latch of D29; with SP above 32, which no event reaches, a call takes the
fatal exception too: log 19): FATAL is set by no instruction but a call at capacity or a return from an empty stack, and
cleared by none. -/
def Obligations.OnlyStackExhaustionSetsFatal : Prop :=
  ∀ (i : Instr) (s t : State), exec i s = .next t →
    (t.fatal = true ↔ s.fatal = true ∨ ((∃ nnn, i = .call nnn) ∧ 32 ≤ s.sp) ∨ (i = .ret ∧ s.sp = 0))

/-- R70, R203, R256 (rests on D18): while FATAL is clear a Tick and an instruction that neither accesses the timers nor
ends in Fatal give the same answer in either order. -/
def Obligations.TicksCommuteWithOtherInstructions : Prop :=
  ∀ (i : Instr) (s : State), s.fatal = false → touchesTimers i = false →
    (∀ nnn, i = .call nnn → s.sp < 32) → (i = .ret → 0 < s.sp) →
    andThen (runEvent s .tick) (exec i) = andThen (exec i s) fun t => runEvent t .tick

/-! ## The step frame, failures and fatal conditions (30_encoding.md, 60_exceptions.md) -/

/-- R103: when PC admits a fetch, the word there decodes to `i` and the machine's next event is a step, the machine's step
is `exec i`, whatever that answers. The event is a step when a `step` command is at the head of the agenda, which brings
the environment's answers (log 2), and, with an empty agenda, until the next Tick is due, the answers being free values;
then it is that Tick (log 1). The answer `continue` is in place when the instruction runs (log 13). -/
def Obligations.StepRunsDecodedInstruction : Prop :=
  ∀ (s : State) (i : Instr), s.fatal = false → s.pc.toNat ≤ 0x0FFE → decode s.fetchWord = .ok i →
    (∀ inp rest, s.agenda = .step inp :: rest →
      step s = exec i { s with agenda := rest, inputs := inp, reply := .proceed }) ∧
    (s.agenda = [] → 0 < s.untilTick →
      step s = exec i
        { s with
          draws := s.draws + 1, untilTick := s.untilTick - 1, inputs := freeInputs s.draws, reply := .proceed }) ∧
    (s.agenda = [] → s.untilTick = 0 →
      step s = .next { s with draws := s.draws + 1, untilTick := Config.freeGap s.draws, timers := s.timers.tick })

/-- R249, R243, R241 (rests on D7, D34): where the next event is a step, PC above 0x0FFE stops it with FetchBound whatever
lies in memory, and only then an illegal word stops it with DecodeFailure (as faults: R250, log 11). -/
def Obligations.FetchBoundThenDecodeFailure : Prop :=
  ∀ s : State, s.fatal = false →
    (∃ inp rest, s.agenda = .step inp :: rest) ∨ (s.agenda = [] ∧ 0 < s.untilTick) →
    (0x0FFE < s.pc.toNat → step s = .fault .fetchBound) ∧
    (s.pc.toNat ≤ 0x0FFE → decode s.fetchWord = .error .illegalWord → step s = .fault .decodeFailure)

/-- R250, R215 (rests on D6, D30; log 11): where a step fails, a driver that goes on finds that nothing has changed but
that the event is past (its free values used up, log 2) and the host was answered `decodeFailure` whatever the cause; and
a further `step` fails with the same cause after any number of Ticks, whatever the environment answers. -/
def Obligations.FailedStepChangesNothingAndRecurs : Prop :=
  ∀ (s : State) (c : Fault), s.fatal = false → step s = .fault c →
    (∀ e rest, s.agenda = e :: rest → driven s = { s with agenda := rest, reply := .decodeFailure }) ∧
    (s.agenda = [] →
      driven s = { s with draws := s.draws + 1, untilTick := s.untilTick - 1, reply := .decodeFailure }) ∧
    ∀ (n : Nat) (inp : Inputs) (rest : List Event),
      step { ticks n (driven s) with agenda := .step inp :: rest } = .fault c

/-- R29, R210, R251 (rests on D25, D29; the final fault: log 17): while FATAL is set no step, Tick or command has any
effect (nor does the model's display event, log 15), and with no event to come the machine has stopped. -/
def Obligations.FatalStopsEveryAgent : Prop :=
  ∀ (events : List Event) (s : State), Event.powerOn ∉ events → s.fatal = true → s.agenda = events →
    runFor events.length s = .next { s with agenda := [] } ∧ step { s with agenda := [] } = .fault .fatalLatched

/-! ## Reset and invariants (10_state.md, 70_reset_and_hazards.md) -/

/-- R32 (rests on D20, D21, D29 for MODE, the timers and FATAL): the state after power-on, for every value of the
parameters; the font table lies at FONT_BASE and MEM_INIT elsewhere. Power-on in the agenda gives that state whatever the
machine was doing, FATAL included (R251, R280), and does not clear the display (R283), whose pixels and persistent
fields stay (that the parameters, the events to come and the counters of free values stay too: log 20; the model's other
fields: log 14). -/
def Obligations.PowerOnValues : Prop :=
  ∀ c : Config, c.wf = true →
    (∀ r, (State.powerOn c).getV r = 0) ∧ (State.powerOn c).i = 0 ∧ (State.powerOn c).pc = 0 ∧
    (State.powerOn c).sp = 0 ∧ (∀ k, (State.powerOn c).slot k = 0) ∧
    (∀ k (h : k < 80), (State.powerOn c).readByte (c.fontBase.toNat + k) = c.fontTable[k]) ∧
    (∀ a, a < 4096 → a < c.fontBase.toNat ∨ c.fontBase.toNat + 80 ≤ a →
      (State.powerOn c).readByte a = c.memInit.getD a 0) ∧
    (State.powerOn c).mode = .legacy ∧ (State.powerOn c).timers.dt = 0 ∧ (State.powerOn c).timers.st = 0 ∧
    (State.powerOn c).timers.paused = false ∧ (State.powerOn c).timers.exited = false ∧
    (State.powerOn c).timers.closed = false ∧ (State.powerOn c).timers.queue = [] ∧ (State.powerOn c).fatal = false ∧
    ∀ (s : State) (rest : List Event), s.cfg = c → s.agenda = .powerOn :: rest →
      step s = .next
        { State.powerOn c with
          lit := s.lit, surface := s.surface, agenda := rest, draws := s.draws, untilTick := s.untilTick }

/-- R34: the invariant holds after power-on for every legal value of the parameters, and in State.reset (whose
parameters, unlit display and zero persistent fields are the model's choice, logs 4 and 6 to 10). -/
def Obligations.InvariantHoldsAtReset : Prop :=
  (∀ c : Config, c.wf = true → (State.powerOn c).inv = true) ∧ State.reset.inv = true

/-- R34, R63, R122, R223: every event keeps SP in 0 to 32, every address inside memory, memory and framebuffer in
canonical form, and the display surface's persistent fields DISP_LEN bytes. -/
def Obligations.EveryStepKeepsInvariant : Prop :=
  ∀ s t : State, s.inv = true → step s = .next t → t.inv = true

/-! ## The timer engine (60_exceptions.md) -/

/-- R256 (rests on D18, D19): one Tick event. It changes only the timer engine's state: a queued signal is consumed
first, the Tick that consumes Exit or finds a closed, empty queue exits without a decrement, and both timers count down
to 0 together unless paused (that the Tick event of an exited engine changes nothing: log 18). -/
def Obligations.TickFollowsItsRule : Prop :=
  ∀ (s : State) (rest : List Event), s.fatal = false → s.agenda = .tick :: rest →
    ∃ t : State, step s = .next t ∧ t = { s with agenda := rest, timers := t.timers } ∧
      (s.timers.exited = true → t.timers = s.timers) ∧
      (s.timers.exited = false → ∀ q, s.timers.queue = .exit :: q →
        t.timers = { s.timers with exited := true, queue := q }) ∧
      (s.timers.exited = false → s.timers.queue = [] → s.timers.closed = true →
        t.timers = { s.timers with exited := true }) ∧
      (s.timers.exited = false → (∀ q, s.timers.queue ≠ .exit :: q) → s.timers.queue ≠ [] ∨ s.timers.closed = false →
        t.timers.queue = s.timers.queue.tail ∧ t.timers.exited = false ∧ t.timers.closed = s.timers.closed ∧
        t.timers.paused = (match s.timers.queue.head? with
          | some .pause => true
          | some .resume => false
          | _ => s.timers.paused) ∧
        t.timers.dt.toNat = s.timers.dt.toNat - (if t.timers.paused then 0 else 1) ∧
        t.timers.st.toNat = s.timers.st.toNat - (if t.timers.paused then 0 else 1))

/-- The source's E10 (R256, R260; rests on D31): while FATAL is clear a running engine with nothing to consume brings both
timers down by one a Tick, to 0 and never below; and Ticks keep coming: in a free run, one with an empty agenda, whose
driver goes on after a Fail, the next `untilTick` events are followed by a Tick unless one of them was fatal, and then by
a finite number of events again (the form of this fairness: log 1). -/
def Obligations.TimersDecayToZero : Prop :=
  (∀ (n : Nat) (s : State), s.fatal = false → s.timers.paused = false → s.timers.exited = false →
    s.timers.closed = false → s.timers.queue = [] →
    (ticks n s).timers.dt.toNat = s.timers.dt.toNat - n ∧ (ticks n s).timers.st.toNat = s.timers.st.toNat - n ∧
    ticks n s = { s with timers := { s.timers with dt := (ticks n s).timers.dt, st := (ticks n s).timers.st } }) ∧
  (∀ s u : State, s.agenda = [] → u = drive s.untilTick s → u.fatal = false →
    u.agenda = [] ∧
    ∃ gap : Nat, step u = .next { u with timers := u.timers.tick, draws := u.draws + 1, untilTick := gap })

/-- R257, R258 (rests on D19, D20): while FATAL is clear k queued signals without Exit take k Ticks, in the order sent, the
last Pause or Resume among them deciding; no Tick event changes anything once the engine has exited (log 18), nor with
FATAL set (R256, R29; vector TK10). -/
def Obligations.SignalsTakeOneTickEachAndExitIsFinal : Prop :=
  (∀ (sigs : List Signal) (s : State), s.fatal = false → s.timers.exited = false → s.timers.queue = sigs →
    Signal.exit ∉ sigs →
    (ticks sigs.length s).timers.queue = [] ∧ (ticks sigs.length s).timers.exited = false ∧
    (ticks sigs.length s).timers.closed = s.timers.closed ∧
    (ticks sigs.length s).timers.paused = sigs.foldl
      (fun p sig => match sig with
        | .pause => true
        | .resume => false
        | _ => p) s.timers.paused) ∧
  (∀ (n : Nat) (s : State), s.timers.exited = true → ticks n s = s) ∧
  (∀ (n : Nat) (s : State), s.fatal = true → ticks n s = s)

/-! ## Host commands and the serializer (46_host_commands.md) -/

/-- R212, R213, R221, R222 (rests on D19, D20, D25): each of these commands changes its one piece of state and nothing
else of the CORE; the host is answered `continue` (log 13). -/
def Obligations.SimpleCommandsWriteOneField : Prop :=
  ∀ (s : State) (rest : List Event) (c : Command), s.fatal = false → s.agenda = .command c :: rest →
    (∀ addr, c = .setProgramCounter addr →
      step s = .next { s with agenda := rest, reply := .proceed, pc := addr }) ∧
    (∀ m, c = .setMode m → step s = .next { s with agenda := rest, reply := .proceed, mode := m }) ∧
    (∀ sig, c = .signal sig → step s = .next { s with agenda := rest, reply := .proceed, timers :=
      { s.timers with queue := if s.timers.closed then s.timers.queue else s.timers.queue ++ [sig] } }) ∧
    (c = .disconnect →
      step s = .next { s with agenda := rest, reply := .proceed, timers := { s.timers with closed := true } })

/-- R33, R211 (rests on D22): `initialize` zeroes V, I, PC, SP and the stack, installs the font table, and leaves every
other byte of memory, MODE, the timers and the display alone (the answer in `reply`: log 13). -/
def Obligations.InitializeResetsOnlyItsList : Prop :=
  ∀ (s : State) (rest : List Event), s.inv = true → s.fatal = false → s.agenda = .command .initCore :: rest →
    ∃ t, step s = .next t ∧ (∀ r, t.getV r = 0) ∧ t.i = 0 ∧ t.pc = 0 ∧ t.sp = 0 ∧ (∀ k, t.slot k = 0) ∧
      (∀ k (h : k < 80), t.readByte (s.cfg.fontBase.toNat + k) = s.cfg.fontTable[k]) ∧
      KeepsMemOutside s.cfg.fontBase.toNat 80 s t ∧ t.mode = s.mode ∧ t.timers = s.timers ∧ t.lit = s.lit ∧
      t.surface = s.surface ∧ t.fatal = false ∧ t.cfg = s.cfg ∧ t.agenda = rest ∧ t.draws = s.draws ∧
      t.untilTick = s.untilTick ∧ t.reply = .proceed

/-- R214 (rests on D26): a ROM of at most 3584 bytes is stored verbatim from 0x200 and touches nothing else; a longer one
is refused whole (the answer in `reply`: log 13). -/
def Obligations.LoadRomStoresFromOrigin : Prop :=
  ∀ (s : State) (rest : List Event) (bytes : List Byte), s.inv = true → s.fatal = false →
    s.agenda = .command (.loadROM bytes) :: rest →
    (bytes.length ≤ 3584 → ∃ t, step s = .next t ∧ (∀ k (h : k < bytes.length), t.readByte (0x200 + k) = bytes[k]) ∧
      KeepsMemOutside 0x200 bytes.length s t ∧ t = { s with mem := t.mem, agenda := rest, reply := .proceed }) ∧
    (3584 < bytes.length → step s = .next { s with agenda := rest, reply := .refused })

/-- R216, R217, R223 (rests on D18, D23): where each field of the state lies in the buffer `save` returns, the display
surface's persistent fields at its end, and that `save` changes nothing (but the answer in `reply`: log 13). -/
def Obligations.SaveBufferLayout : Prop :=
  ∀ (s : State) (rest : List Event), s.inv = true → s.fatal = false → s.agenda = .command .save :: rest →
    ∃ b : List Byte, step s = .next { s with agenda := rest, reply := .saved b } ∧
      b.length = 4184 + s.cfg.dispLen ∧
      (∀ a, a < 4096 → b[a]? = some (s.readByte a)) ∧
      b[4096]? = some (s.pc.extractLsb' 0 8) ∧ b[4097]? = some (s.pc.extractLsb' 8 8) ∧
      b[4098]? = some (s.i.extractLsb' 0 8) ∧ b[4099]? = some (s.i.extractLsb' 8 8) ∧
      (∀ r : Reg, b[4100 + r.val]? = some (s.getV r)) ∧
      (∀ k, k < 32 → b[4116 + 2 * k]? = some ((s.slot k).extractLsb' 0 8) ∧
        b[4117 + 2 * k]? = some ((s.slot k).extractLsb' 8 8)) ∧
      (∃ d, b[4180]? = some d ∧ d.toNat = s.sp) ∧
      b[4181]? = some (if s.mode = .legacy then (0 : Byte) else 1) ∧
      b[4182]? = some s.timers.dt ∧ b[4183]? = some s.timers.st ∧
      (∀ k, k < s.cfg.dispLen → b[4184 + k]? = s.surface[k]?)

/-- R218, R219 (rests on D24): a buffer that is too short, has a mode tag other than 0 and 1 or a depth above 32 is
fatal and changes nothing but FATAL (the answer in `reply`: log 13). -/
def Obligations.MalformedRestoreIsFatal : Prop :=
  ∀ (s : State) (rest : List Event) (buf : List Byte), s.fatal = false →
    s.agenda = .command (.restore buf) :: rest →
    (buf.length < 4184 + s.cfg.dispLen ∨ (∃ b, buf[4181]? = some b ∧ b ≠ 0 ∧ b ≠ 1) ∨
      (∃ b, buf[4180]? = some b ∧ 32 < b.toNat)) →
    step s = .next { s with agenda := rest, fatal := true, reply := .none }

/-- R220, R218, R223 (rests on D23, D24; the display's two queries are inverse: log 15). What `save` returns in a state,
`restore` gives back bit for bit in any machine with the same parameters and FATAL clear, and never ends in Fatal; the
timer engine's control state stays that machine's own. And any buffer `restore` accepts, made by a `save` or not, is what
a `save` returns next, up to PAYLOAD. -/
def Obligations.SaveThenRestoreRoundTrips : Prop :=
  (∀ (s t : State) (b : List Byte) (rest : List Event), s.inv = true → s.fatal = false →
    s.agenda = .command .save :: rest → step s = .next t → t.reply = .saved b →
    ∀ (r : State) (rest' : List Event), r.cfg = s.cfg → r.fatal = false → r.agenda = .command (.restore b) :: rest' →
      ∃ u, step r = .next u ∧ u.fatal = false ∧ u.mem = s.mem ∧ u.pc = s.pc ∧ u.i = s.i ∧ u.v = s.v ∧
        u.stack = s.stack ∧ u.sp = s.sp ∧ u.mode = s.mode ∧
        u.timers = { r.timers with dt := s.timers.dt, st := s.timers.st } ∧
        u.persistentFields = s.persistentFields) ∧
  (∀ (r : State) (buf : List Byte) (rest : List Event), r.cfg.wf = true → r.fatal = false →
    r.agenda = .command (.restore buf) :: .command .save :: rest → 4184 + r.cfg.dispLen ≤ buf.length →
    (buf[4181]? = some 0 ∨ buf[4181]? = some 1) → (∃ d, buf[4180]? = some d ∧ d.toNat ≤ 32) →
    ∃ u v, step r = .next u ∧ u.fatal = false ∧
      u.timers = { r.timers with dt := u.timers.dt, st := u.timers.st } ∧
      step u = .next v ∧ v.reply = .saved (buf.take (4184 + r.cfg.dispLen)))
end

