-- ==== Sys2Proof/Laws/Decode.lean ====
section
/-! SUPPORT. The fields and formats of an instruction word as numbers, and each field of each format. -/

namespace Sys2Proof

/-! ## Fields and formats as numbers -/

theorem toNat_append_eq {m k : Nat} (a : BitVec m) (b : BitVec k) :
    (a ++ b).toNat = a.toNat * 2 ^ k + b.toNat := by
  rw [BitVec.toNat_append, Nat.shiftLeft_eq, Nat.mul_comm, ← Nat.two_pow_add_eq_or_of_lt b.isLt]

@[simp] theorem toNat_selector (x : Reg) : (selector x).toNat = x.val := rfl

theorem toNat_formatXNN (f : BitVec 4) (x : Reg) (nn : Byte) :
    (formatXNN f x nn).toNat = f.toNat * 4096 + x.val * 256 + nn.toNat := by
  have h : (formatXNN f x nn).toNat = (f ++ selector x ++ nn).toNat := rfl
  rw [h, toNat_append_eq, toNat_append_eq, toNat_selector]
  omega

theorem toNat_formatXYN (f : BitVec 4) (x y : Reg) (n : BitVec 4) :
    (formatXYN f x y n).toNat = f.toNat * 4096 + x.val * 256 + y.val * 16 + n.toNat := by
  have h : (formatXYN f x y n).toNat = (f ++ selector x ++ selector y ++ n).toNat := rfl
  rw [h, toNat_append_eq, toNat_append_eq, toNat_append_eq, toNat_selector, toNat_selector]
  omega

theorem toNat_formatNNN (f : BitVec 4) (nnn : Word) :
    (formatNNN f nnn).toNat = f.toNat * 4096 + nnn.toNat % 4096 := by
  have h : (formatNNN f nnn).toNat = (f ++ nnn.setWidth 12).toNat := rfl
  rw [h, toNat_append_eq, BitVec.toNat_setWidth]
  norm_num

theorem toNat_fieldF (op : Word) : (fieldF op).toNat = op.toNat / 4096 := by
  have := op.isLt
  simp only [fieldF, BitVec.extractLsb'_toNat, Nat.shiftRight_eq_div_pow]
  omega

theorem val_fieldX (op : Word) : (fieldX op).val = op.toNat / 256 % 16 := by
  simp only [fieldX, BitVec.val_toFin, BitVec.extractLsb'_toNat, Nat.shiftRight_eq_div_pow]

theorem val_fieldY (op : Word) : (fieldY op).val = op.toNat / 16 % 16 := by
  simp only [fieldY, BitVec.val_toFin, BitVec.extractLsb'_toNat, Nat.shiftRight_eq_div_pow]

theorem toNat_fieldN (op : Word) : (fieldN op).toNat = op.toNat % 16 := by
  simp only [fieldN, BitVec.extractLsb'_toNat, Nat.shiftRight_zero]

theorem toNat_fieldNN (op : Word) : (fieldNN op).toNat = op.toNat % 256 := by
  simp only [fieldNN, BitVec.extractLsb'_toNat, Nat.shiftRight_zero]

theorem toNat_fieldNNN (op : Word) : (fieldNNN op).toNat = op.toNat % 4096 := by
  simp only [fieldNNN, BitVec.toNat_setWidth, BitVec.extractLsb'_toNat, Nat.shiftRight_zero]
  omega

theorem toNat_wordOfBytes (hi lo : Byte) : (wordOfBytes hi lo).toNat = 256 * hi.toNat + lo.toNat := by
  have h : (wordOfBytes hi lo).toNat = (hi ++ lo).toNat := rfl
  rw [h, toNat_append_eq]
  omega

theorem toNat_highByte (w : Word) : (highByte w).toNat = w.toNat / 256 := by
  have := w.isLt
  simp only [highByte, BitVec.extractLsb'_toNat, Nat.shiftRight_eq_div_pow]
  omega

theorem toNat_lowByte (w : Word) : (lowByte w).toNat = w.toNat % 256 := by
  simp only [lowByte, BitVec.extractLsb'_toNat, Nat.shiftRight_zero]

/-- A word is its two bytes. -/
@[simp] theorem wordOfBytes_high_low (w : Word) : wordOfBytes (highByte w) (lowByte w) = w := by
  apply BitVec.eq_of_toNat_eq
  rw [toNat_wordOfBytes, toNat_highByte, toNat_lowByte]
  omega

@[simp] theorem highByte_wordOfBytes (hi lo : Byte) : highByte (wordOfBytes hi lo) = hi := by
  refine BitVec.eq_of_toNat_eq ?_
  have := lo.isLt
  have := hi.isLt
  rw [toNat_highByte, toNat_wordOfBytes]
  omega

@[simp] theorem lowByte_wordOfBytes (hi lo : Byte) : lowByte (wordOfBytes hi lo) = lo := by
  refine BitVec.eq_of_toNat_eq ?_
  have := lo.isLt
  rw [toNat_lowByte, toNat_wordOfBytes]
  omega

/-! ## Each field of each format -/

theorem fields_formatXNN (f : BitVec 4) (x : Reg) (nn : Byte) :
    fieldF (formatXNN f x nn) = f ∧ fieldX (formatXNN f x nn) = x ∧ fieldNN (formatXNN f x nn) = nn := by
  refine ⟨BitVec.eq_of_toNat_eq ?_, Fin.ext ?_, BitVec.eq_of_toNat_eq ?_⟩ <;>
    simp only [toNat_fieldF, val_fieldX, toNat_fieldNN, toNat_formatXNN] <;> omega

theorem fields_formatXYN (f : BitVec 4) (x y : Reg) (n : BitVec 4) :
    fieldF (formatXYN f x y n) = f ∧ fieldX (formatXYN f x y n) = x ∧ fieldY (formatXYN f x y n) = y ∧
      fieldN (formatXYN f x y n) = n := by
  refine ⟨BitVec.eq_of_toNat_eq ?_, Fin.ext ?_, Fin.ext ?_, BitVec.eq_of_toNat_eq ?_⟩ <;>
    simp only [toNat_fieldF, val_fieldX, val_fieldY, toNat_fieldN, toNat_formatXYN] <;> omega

theorem fields_formatNNN (f : BitVec 4) (nnn : Word) (h : nnn.toNat < 0x1000) :
    fieldF (formatNNN f nnn) = f ∧ fieldNNN (formatNNN f nnn) = nnn := by
  refine ⟨BitVec.eq_of_toNat_eq ?_, BitVec.eq_of_toNat_eq ?_⟩ <;>
    simp only [toNat_fieldF, toNat_fieldNNN, toNat_formatNNN] <;> omega

/-! ## A word from its fields -/

theorem formatXNN_fields (op : Word) (f : BitVec 4) (nn : Byte) (hf : fieldF op = f) (hn : fieldNN op = nn) :
    formatXNN f (fieldX op) nn = op := by
  subst hf hn
  apply BitVec.eq_of_toNat_eq
  have := op.isLt
  rw [toNat_formatXNN, toNat_fieldF, val_fieldX, toNat_fieldNN]
  omega

theorem formatXYN_fields (op : Word) (f n : BitVec 4) (hf : fieldF op = f) (hn : fieldN op = n) :
    formatXYN f (fieldX op) (fieldY op) n = op := by
  subst hf hn
  apply BitVec.eq_of_toNat_eq
  have := op.isLt
  rw [toNat_formatXYN, toNat_fieldF, val_fieldX, val_fieldY, toNat_fieldN]
  omega

theorem formatNNN_fields (op : Word) (f : BitVec 4) (hf : fieldF op = f) : formatNNN f (fieldNNN op) = op := by
  subst hf
  apply BitVec.eq_of_toNat_eq
  have := op.isLt
  rw [toNat_formatNNN, toNat_fieldF, toNat_fieldNNN]
  omega

end Sys2Proof
end

