-- ==== Sys2Proof/Laws/State.lean ====
section
/-! SUPPORT. One lemma per field per update of State: what each update puts into a field, and that it leaves every other field alone. -/

namespace Sys2Proof.Machine

variable (s : State)

/-! ## Compound updates are written as the base ones -/

@[simp] theorem State.advance_eq : s.advance = s.setPc (s.pc + 2) := rfl
@[simp] theorem State.skipIf_eq (c : Bool) : s.skipIf c = s.setPc (if c then s.pc + 4 else s.pc + 2) := rfl
@[simp] theorem State.setFlag_eq (c : Bool) : s.setFlag c = s.setV vf (flagByte c) := rfl
@[simp] theorem State.writeResult_eq (x : Reg) (b : Byte) : s.writeResult x b = (s.setV x b).advance := rfl
@[simp] theorem State.writeResultFlag_eq (x : Reg) (b : Byte) (c : Bool) :
    s.writeResultFlag x b c = ((s.setV x b).setFlag c).advance := rfl


/-! ## setV -/

@[simp] theorem State.setV_v (x : Reg) (b : Byte) : (s.setV x b).v = s.v.set x.val b := rfl
@[simp] theorem State.setV_i (x : Reg) (b : Byte) : (s.setV x b).i = s.i := rfl
@[simp] theorem State.setV_pc (x : Reg) (b : Byte) : (s.setV x b).pc = s.pc := rfl
@[simp] theorem State.setV_stack (x : Reg) (b : Byte) : (s.setV x b).stack = s.stack := rfl
@[simp] theorem State.setV_sp (x : Reg) (b : Byte) : (s.setV x b).sp = s.sp := rfl
@[simp] theorem State.setV_mode (x : Reg) (b : Byte) : (s.setV x b).mode = s.mode := rfl
@[simp] theorem State.setV_timers (x : Reg) (b : Byte) : (s.setV x b).timers = s.timers := rfl
@[simp] theorem State.setV_mem (x : Reg) (b : Byte) : (s.setV x b).mem = s.mem := rfl
@[simp] theorem State.setV_fatal (x : Reg) (b : Byte) : (s.setV x b).fatal = s.fatal := rfl
@[simp] theorem State.setV_lit (x : Reg) (b : Byte) : (s.setV x b).lit = s.lit := rfl
@[simp] theorem State.setV_surface (x : Reg) (b : Byte) : (s.setV x b).surface = s.surface := rfl
@[simp] theorem State.setV_cfg (x : Reg) (b : Byte) : (s.setV x b).cfg = s.cfg := rfl
@[simp] theorem State.setV_inputs (x : Reg) (b : Byte) : (s.setV x b).inputs = s.inputs := rfl
@[simp] theorem State.setV_agenda (x : Reg) (b : Byte) : (s.setV x b).agenda = s.agenda := rfl
@[simp] theorem State.setV_draws (x : Reg) (b : Byte) : (s.setV x b).draws = s.draws := rfl
@[simp] theorem State.setV_untilTick (x : Reg) (b : Byte) : (s.setV x b).untilTick = s.untilTick := rfl
@[simp] theorem State.setV_reply (x : Reg) (b : Byte) : (s.setV x b).reply = s.reply := rfl

/-! ## setI -/

@[simp] theorem State.setI_v (w : Word) : (s.setI w).v = s.v := rfl
@[simp] theorem State.setI_i (w : Word) : (s.setI w).i = w := rfl
@[simp] theorem State.setI_pc (w : Word) : (s.setI w).pc = s.pc := rfl
@[simp] theorem State.setI_stack (w : Word) : (s.setI w).stack = s.stack := rfl
@[simp] theorem State.setI_sp (w : Word) : (s.setI w).sp = s.sp := rfl
@[simp] theorem State.setI_mode (w : Word) : (s.setI w).mode = s.mode := rfl
@[simp] theorem State.setI_timers (w : Word) : (s.setI w).timers = s.timers := rfl
@[simp] theorem State.setI_mem (w : Word) : (s.setI w).mem = s.mem := rfl
@[simp] theorem State.setI_fatal (w : Word) : (s.setI w).fatal = s.fatal := rfl
@[simp] theorem State.setI_lit (w : Word) : (s.setI w).lit = s.lit := rfl
@[simp] theorem State.setI_surface (w : Word) : (s.setI w).surface = s.surface := rfl
@[simp] theorem State.setI_cfg (w : Word) : (s.setI w).cfg = s.cfg := rfl
@[simp] theorem State.setI_inputs (w : Word) : (s.setI w).inputs = s.inputs := rfl
@[simp] theorem State.setI_agenda (w : Word) : (s.setI w).agenda = s.agenda := rfl
@[simp] theorem State.setI_draws (w : Word) : (s.setI w).draws = s.draws := rfl
@[simp] theorem State.setI_untilTick (w : Word) : (s.setI w).untilTick = s.untilTick := rfl
@[simp] theorem State.setI_reply (w : Word) : (s.setI w).reply = s.reply := rfl

/-! ## setPc -/

@[simp] theorem State.setPc_v (w : Word) : (s.setPc w).v = s.v := rfl
@[simp] theorem State.setPc_i (w : Word) : (s.setPc w).i = s.i := rfl
@[simp] theorem State.setPc_pc (w : Word) : (s.setPc w).pc = w := rfl
@[simp] theorem State.setPc_stack (w : Word) : (s.setPc w).stack = s.stack := rfl
@[simp] theorem State.setPc_sp (w : Word) : (s.setPc w).sp = s.sp := rfl
@[simp] theorem State.setPc_mode (w : Word) : (s.setPc w).mode = s.mode := rfl
@[simp] theorem State.setPc_timers (w : Word) : (s.setPc w).timers = s.timers := rfl
@[simp] theorem State.setPc_mem (w : Word) : (s.setPc w).mem = s.mem := rfl
@[simp] theorem State.setPc_fatal (w : Word) : (s.setPc w).fatal = s.fatal := rfl
@[simp] theorem State.setPc_lit (w : Word) : (s.setPc w).lit = s.lit := rfl
@[simp] theorem State.setPc_surface (w : Word) : (s.setPc w).surface = s.surface := rfl
@[simp] theorem State.setPc_cfg (w : Word) : (s.setPc w).cfg = s.cfg := rfl
@[simp] theorem State.setPc_inputs (w : Word) : (s.setPc w).inputs = s.inputs := rfl
@[simp] theorem State.setPc_agenda (w : Word) : (s.setPc w).agenda = s.agenda := rfl
@[simp] theorem State.setPc_draws (w : Word) : (s.setPc w).draws = s.draws := rfl
@[simp] theorem State.setPc_untilTick (w : Word) : (s.setPc w).untilTick = s.untilTick := rfl
@[simp] theorem State.setPc_reply (w : Word) : (s.setPc w).reply = s.reply := rfl

/-! ## setDT -/

@[simp] theorem State.setDT_v (b : Byte) : (s.setDT b).v = s.v := rfl
@[simp] theorem State.setDT_i (b : Byte) : (s.setDT b).i = s.i := rfl
@[simp] theorem State.setDT_pc (b : Byte) : (s.setDT b).pc = s.pc := rfl
@[simp] theorem State.setDT_stack (b : Byte) : (s.setDT b).stack = s.stack := rfl
@[simp] theorem State.setDT_sp (b : Byte) : (s.setDT b).sp = s.sp := rfl
@[simp] theorem State.setDT_mode (b : Byte) : (s.setDT b).mode = s.mode := rfl
@[simp] theorem State.setDT_timers (b : Byte) : (s.setDT b).timers = { s.timers with dt := b } := rfl
@[simp] theorem State.setDT_mem (b : Byte) : (s.setDT b).mem = s.mem := rfl
@[simp] theorem State.setDT_fatal (b : Byte) : (s.setDT b).fatal = s.fatal := rfl
@[simp] theorem State.setDT_lit (b : Byte) : (s.setDT b).lit = s.lit := rfl
@[simp] theorem State.setDT_surface (b : Byte) : (s.setDT b).surface = s.surface := rfl
@[simp] theorem State.setDT_cfg (b : Byte) : (s.setDT b).cfg = s.cfg := rfl
@[simp] theorem State.setDT_inputs (b : Byte) : (s.setDT b).inputs = s.inputs := rfl
@[simp] theorem State.setDT_agenda (b : Byte) : (s.setDT b).agenda = s.agenda := rfl
@[simp] theorem State.setDT_draws (b : Byte) : (s.setDT b).draws = s.draws := rfl
@[simp] theorem State.setDT_untilTick (b : Byte) : (s.setDT b).untilTick = s.untilTick := rfl
@[simp] theorem State.setDT_reply (b : Byte) : (s.setDT b).reply = s.reply := rfl

/-! ## setST -/

@[simp] theorem State.setST_v (b : Byte) : (s.setST b).v = s.v := rfl
@[simp] theorem State.setST_i (b : Byte) : (s.setST b).i = s.i := rfl
@[simp] theorem State.setST_pc (b : Byte) : (s.setST b).pc = s.pc := rfl
@[simp] theorem State.setST_stack (b : Byte) : (s.setST b).stack = s.stack := rfl
@[simp] theorem State.setST_sp (b : Byte) : (s.setST b).sp = s.sp := rfl
@[simp] theorem State.setST_mode (b : Byte) : (s.setST b).mode = s.mode := rfl
@[simp] theorem State.setST_timers (b : Byte) : (s.setST b).timers = { s.timers with st := b } := rfl
@[simp] theorem State.setST_mem (b : Byte) : (s.setST b).mem = s.mem := rfl
@[simp] theorem State.setST_fatal (b : Byte) : (s.setST b).fatal = s.fatal := rfl
@[simp] theorem State.setST_lit (b : Byte) : (s.setST b).lit = s.lit := rfl
@[simp] theorem State.setST_surface (b : Byte) : (s.setST b).surface = s.surface := rfl
@[simp] theorem State.setST_cfg (b : Byte) : (s.setST b).cfg = s.cfg := rfl
@[simp] theorem State.setST_inputs (b : Byte) : (s.setST b).inputs = s.inputs := rfl
@[simp] theorem State.setST_agenda (b : Byte) : (s.setST b).agenda = s.agenda := rfl
@[simp] theorem State.setST_draws (b : Byte) : (s.setST b).draws = s.draws := rfl
@[simp] theorem State.setST_untilTick (b : Byte) : (s.setST b).untilTick = s.untilTick := rfl
@[simp] theorem State.setST_reply (b : Byte) : (s.setST b).reply = s.reply := rfl

/-! ## writeByte -/

@[simp] theorem State.writeByte_v (a : Nat) (b : Byte) : (s.writeByte a b).v = s.v := rfl
@[simp] theorem State.writeByte_i (a : Nat) (b : Byte) : (s.writeByte a b).i = s.i := rfl
@[simp] theorem State.writeByte_pc (a : Nat) (b : Byte) : (s.writeByte a b).pc = s.pc := rfl
@[simp] theorem State.writeByte_stack (a : Nat) (b : Byte) : (s.writeByte a b).stack = s.stack := rfl
@[simp] theorem State.writeByte_sp (a : Nat) (b : Byte) : (s.writeByte a b).sp = s.sp := rfl
@[simp] theorem State.writeByte_mode (a : Nat) (b : Byte) : (s.writeByte a b).mode = s.mode := rfl
@[simp] theorem State.writeByte_timers (a : Nat) (b : Byte) : (s.writeByte a b).timers = s.timers := rfl
@[simp] theorem State.writeByte_mem (a : Nat) (b : Byte) :
    (s.writeByte a b).mem = s.mem.write (powerOnByte s.cfg) a b := rfl
@[simp] theorem State.writeByte_fatal (a : Nat) (b : Byte) : (s.writeByte a b).fatal = s.fatal := rfl
@[simp] theorem State.writeByte_lit (a : Nat) (b : Byte) : (s.writeByte a b).lit = s.lit := rfl
@[simp] theorem State.writeByte_surface (a : Nat) (b : Byte) : (s.writeByte a b).surface = s.surface := rfl
@[simp] theorem State.writeByte_cfg (a : Nat) (b : Byte) : (s.writeByte a b).cfg = s.cfg := rfl
@[simp] theorem State.writeByte_inputs (a : Nat) (b : Byte) : (s.writeByte a b).inputs = s.inputs := rfl
@[simp] theorem State.writeByte_agenda (a : Nat) (b : Byte) : (s.writeByte a b).agenda = s.agenda := rfl
@[simp] theorem State.writeByte_draws (a : Nat) (b : Byte) : (s.writeByte a b).draws = s.draws := rfl
@[simp] theorem State.writeByte_untilTick (a : Nat) (b : Byte) : (s.writeByte a b).untilTick = s.untilTick := rfl
@[simp] theorem State.writeByte_reply (a : Nat) (b : Byte) : (s.writeByte a b).reply = s.reply := rfl

/-! ## push -/

@[simp] theorem State.push_v (w : Word) : (s.push w).v = s.v := rfl
@[simp] theorem State.push_i (w : Word) : (s.push w).i = s.i := rfl
@[simp] theorem State.push_pc (w : Word) : (s.push w).pc = s.pc := rfl
@[simp] theorem State.push_stack (w : Word) : (s.push w).stack = s.stack.setIfInBounds s.sp w := rfl
@[simp] theorem State.push_sp (w : Word) : (s.push w).sp = s.sp + 1 := rfl
@[simp] theorem State.push_mode (w : Word) : (s.push w).mode = s.mode := rfl
@[simp] theorem State.push_timers (w : Word) : (s.push w).timers = s.timers := rfl
@[simp] theorem State.push_mem (w : Word) : (s.push w).mem = s.mem := rfl
@[simp] theorem State.push_fatal (w : Word) : (s.push w).fatal = s.fatal := rfl
@[simp] theorem State.push_lit (w : Word) : (s.push w).lit = s.lit := rfl
@[simp] theorem State.push_surface (w : Word) : (s.push w).surface = s.surface := rfl
@[simp] theorem State.push_cfg (w : Word) : (s.push w).cfg = s.cfg := rfl
@[simp] theorem State.push_inputs (w : Word) : (s.push w).inputs = s.inputs := rfl
@[simp] theorem State.push_agenda (w : Word) : (s.push w).agenda = s.agenda := rfl
@[simp] theorem State.push_draws (w : Word) : (s.push w).draws = s.draws := rfl
@[simp] theorem State.push_untilTick (w : Word) : (s.push w).untilTick = s.untilTick := rfl
@[simp] theorem State.push_reply (w : Word) : (s.push w).reply = s.reply := rfl

/-! ## pop -/

@[simp] theorem State.pop_v : (s.pop).v = s.v := rfl
@[simp] theorem State.pop_i : (s.pop).i = s.i := rfl
@[simp] theorem State.pop_pc : (s.pop).pc = s.pc := rfl
@[simp] theorem State.pop_stack : (s.pop).stack = s.stack := rfl
@[simp] theorem State.pop_sp : (s.pop).sp = s.sp - 1 := rfl
@[simp] theorem State.pop_mode : (s.pop).mode = s.mode := rfl
@[simp] theorem State.pop_timers : (s.pop).timers = s.timers := rfl
@[simp] theorem State.pop_mem : (s.pop).mem = s.mem := rfl
@[simp] theorem State.pop_fatal : (s.pop).fatal = s.fatal := rfl
@[simp] theorem State.pop_lit : (s.pop).lit = s.lit := rfl
@[simp] theorem State.pop_surface : (s.pop).surface = s.surface := rfl
@[simp] theorem State.pop_cfg : (s.pop).cfg = s.cfg := rfl
@[simp] theorem State.pop_inputs : (s.pop).inputs = s.inputs := rfl
@[simp] theorem State.pop_agenda : (s.pop).agenda = s.agenda := rfl
@[simp] theorem State.pop_draws : (s.pop).draws = s.draws := rfl
@[simp] theorem State.pop_untilTick : (s.pop).untilTick = s.untilTick := rfl
@[simp] theorem State.pop_reply : (s.pop).reply = s.reply := rfl

/-! ## clearDisplay -/

@[simp] theorem State.clearDisplay_v : (s.clearDisplay).v = s.v := rfl
@[simp] theorem State.clearDisplay_i : (s.clearDisplay).i = s.i := rfl
@[simp] theorem State.clearDisplay_pc : (s.clearDisplay).pc = s.pc := rfl
@[simp] theorem State.clearDisplay_stack : (s.clearDisplay).stack = s.stack := rfl
@[simp] theorem State.clearDisplay_sp : (s.clearDisplay).sp = s.sp := rfl
@[simp] theorem State.clearDisplay_mode : (s.clearDisplay).mode = s.mode := rfl
@[simp] theorem State.clearDisplay_timers : (s.clearDisplay).timers = s.timers := rfl
@[simp] theorem State.clearDisplay_mem : (s.clearDisplay).mem = s.mem := rfl
@[simp] theorem State.clearDisplay_fatal : (s.clearDisplay).fatal = s.fatal := rfl
@[simp] theorem State.clearDisplay_lit : (s.clearDisplay).lit = [] := rfl
@[simp] theorem State.clearDisplay_surface : (s.clearDisplay).surface = s.surface := rfl
@[simp] theorem State.clearDisplay_cfg : (s.clearDisplay).cfg = s.cfg := rfl
@[simp] theorem State.clearDisplay_inputs : (s.clearDisplay).inputs = s.inputs := rfl
@[simp] theorem State.clearDisplay_agenda : (s.clearDisplay).agenda = s.agenda := rfl
@[simp] theorem State.clearDisplay_draws : (s.clearDisplay).draws = s.draws := rfl
@[simp] theorem State.clearDisplay_untilTick : (s.clearDisplay).untilTick = s.untilTick := rfl
@[simp] theorem State.clearDisplay_reply : (s.clearDisplay).reply = s.reply := rfl

/-! ## setLit -/

@[simp] theorem State.setLit_v (lit : List Nat) : (s.setLit lit).v = s.v := rfl
@[simp] theorem State.setLit_i (lit : List Nat) : (s.setLit lit).i = s.i := rfl
@[simp] theorem State.setLit_pc (lit : List Nat) : (s.setLit lit).pc = s.pc := rfl
@[simp] theorem State.setLit_stack (lit : List Nat) : (s.setLit lit).stack = s.stack := rfl
@[simp] theorem State.setLit_sp (lit : List Nat) : (s.setLit lit).sp = s.sp := rfl
@[simp] theorem State.setLit_mode (lit : List Nat) : (s.setLit lit).mode = s.mode := rfl
@[simp] theorem State.setLit_timers (lit : List Nat) : (s.setLit lit).timers = s.timers := rfl
@[simp] theorem State.setLit_mem (lit : List Nat) : (s.setLit lit).mem = s.mem := rfl
@[simp] theorem State.setLit_fatal (lit : List Nat) : (s.setLit lit).fatal = s.fatal := rfl
@[simp] theorem State.setLit_lit (lit : List Nat) : (s.setLit lit).lit = lit := rfl
@[simp] theorem State.setLit_surface (lit : List Nat) : (s.setLit lit).surface = s.surface := rfl
@[simp] theorem State.setLit_cfg (lit : List Nat) : (s.setLit lit).cfg = s.cfg := rfl
@[simp] theorem State.setLit_inputs (lit : List Nat) : (s.setLit lit).inputs = s.inputs := rfl
@[simp] theorem State.setLit_agenda (lit : List Nat) : (s.setLit lit).agenda = s.agenda := rfl
@[simp] theorem State.setLit_draws (lit : List Nat) : (s.setLit lit).draws = s.draws := rfl
@[simp] theorem State.setLit_untilTick (lit : List Nat) : (s.setLit lit).untilTick = s.untilTick := rfl
@[simp] theorem State.setLit_reply (lit : List Nat) : (s.setLit lit).reply = s.reply := rfl

/-! ## setFatal -/

@[simp] theorem State.setFatal_v : (s.setFatal).v = s.v := rfl
@[simp] theorem State.setFatal_i : (s.setFatal).i = s.i := rfl
@[simp] theorem State.setFatal_pc : (s.setFatal).pc = s.pc := rfl
@[simp] theorem State.setFatal_stack : (s.setFatal).stack = s.stack := rfl
@[simp] theorem State.setFatal_sp : (s.setFatal).sp = s.sp := rfl
@[simp] theorem State.setFatal_mode : (s.setFatal).mode = s.mode := rfl
@[simp] theorem State.setFatal_timers : (s.setFatal).timers = s.timers := rfl
@[simp] theorem State.setFatal_mem : (s.setFatal).mem = s.mem := rfl
@[simp] theorem State.setFatal_fatal : (s.setFatal).fatal = true := rfl
@[simp] theorem State.setFatal_lit : (s.setFatal).lit = s.lit := rfl
@[simp] theorem State.setFatal_surface : (s.setFatal).surface = s.surface := rfl
@[simp] theorem State.setFatal_cfg : (s.setFatal).cfg = s.cfg := rfl
@[simp] theorem State.setFatal_inputs : (s.setFatal).inputs = s.inputs := rfl
@[simp] theorem State.setFatal_agenda : (s.setFatal).agenda = s.agenda := rfl
@[simp] theorem State.setFatal_draws : (s.setFatal).draws = s.draws := rfl
@[simp] theorem State.setFatal_untilTick : (s.setFatal).untilTick = s.untilTick := rfl
@[simp] theorem State.setFatal_reply : (s.setFatal).reply = .none := rfl

/-! ## loadRegsFrom -/

@[simp] theorem State.loadRegsFrom_v (a : Nat) (x : Reg) :
    (s.loadRegsFrom a x).v = Vector.ofFn fun k => if k ≤ x then s.readByte (a + k.val) else s.getV k := rfl
@[simp] theorem State.loadRegsFrom_i (a : Nat) (x : Reg) : (s.loadRegsFrom a x).i = s.i := rfl
@[simp] theorem State.loadRegsFrom_pc (a : Nat) (x : Reg) : (s.loadRegsFrom a x).pc = s.pc := rfl
@[simp] theorem State.loadRegsFrom_stack (a : Nat) (x : Reg) : (s.loadRegsFrom a x).stack = s.stack := rfl
@[simp] theorem State.loadRegsFrom_sp (a : Nat) (x : Reg) : (s.loadRegsFrom a x).sp = s.sp := rfl
@[simp] theorem State.loadRegsFrom_mode (a : Nat) (x : Reg) : (s.loadRegsFrom a x).mode = s.mode := rfl
@[simp] theorem State.loadRegsFrom_timers (a : Nat) (x : Reg) : (s.loadRegsFrom a x).timers = s.timers := rfl
@[simp] theorem State.loadRegsFrom_mem (a : Nat) (x : Reg) : (s.loadRegsFrom a x).mem = s.mem := rfl
@[simp] theorem State.loadRegsFrom_fatal (a : Nat) (x : Reg) : (s.loadRegsFrom a x).fatal = s.fatal := rfl
@[simp] theorem State.loadRegsFrom_lit (a : Nat) (x : Reg) : (s.loadRegsFrom a x).lit = s.lit := rfl
@[simp] theorem State.loadRegsFrom_surface (a : Nat) (x : Reg) : (s.loadRegsFrom a x).surface = s.surface := rfl
@[simp] theorem State.loadRegsFrom_cfg (a : Nat) (x : Reg) : (s.loadRegsFrom a x).cfg = s.cfg := rfl
@[simp] theorem State.loadRegsFrom_inputs (a : Nat) (x : Reg) : (s.loadRegsFrom a x).inputs = s.inputs := rfl
@[simp] theorem State.loadRegsFrom_agenda (a : Nat) (x : Reg) : (s.loadRegsFrom a x).agenda = s.agenda := rfl
@[simp] theorem State.loadRegsFrom_draws (a : Nat) (x : Reg) : (s.loadRegsFrom a x).draws = s.draws := rfl
@[simp] theorem State.loadRegsFrom_untilTick (a : Nat) (x : Reg) : (s.loadRegsFrom a x).untilTick = s.untilTick := rfl
@[simp] theorem State.loadRegsFrom_reply (a : Nat) (x : Reg) : (s.loadRegsFrom a x).reply = s.reply := rfl

/-! ## answer -/

@[simp] theorem State.answer_v (r : Reply) : (s.answer r).v = s.v := rfl
@[simp] theorem State.answer_i (r : Reply) : (s.answer r).i = s.i := rfl
@[simp] theorem State.answer_pc (r : Reply) : (s.answer r).pc = s.pc := rfl
@[simp] theorem State.answer_stack (r : Reply) : (s.answer r).stack = s.stack := rfl
@[simp] theorem State.answer_sp (r : Reply) : (s.answer r).sp = s.sp := rfl
@[simp] theorem State.answer_mode (r : Reply) : (s.answer r).mode = s.mode := rfl
@[simp] theorem State.answer_timers (r : Reply) : (s.answer r).timers = s.timers := rfl
@[simp] theorem State.answer_mem (r : Reply) : (s.answer r).mem = s.mem := rfl
@[simp] theorem State.answer_fatal (r : Reply) : (s.answer r).fatal = s.fatal := rfl
@[simp] theorem State.answer_lit (r : Reply) : (s.answer r).lit = s.lit := rfl
@[simp] theorem State.answer_surface (r : Reply) : (s.answer r).surface = s.surface := rfl
@[simp] theorem State.answer_cfg (r : Reply) : (s.answer r).cfg = s.cfg := rfl
@[simp] theorem State.answer_inputs (r : Reply) : (s.answer r).inputs = s.inputs := rfl
@[simp] theorem State.answer_agenda (r : Reply) : (s.answer r).agenda = s.agenda := rfl
@[simp] theorem State.answer_draws (r : Reply) : (s.answer r).draws = s.draws := rfl
@[simp] theorem State.answer_untilTick (r : Reply) : (s.answer r).untilTick = s.untilTick := rfl
@[simp] theorem State.answer_reply (r : Reply) : (s.answer r).reply = r := rfl

/-! ## beginStep -/

@[simp] theorem State.beginStep_v (inp : Inputs) : (s.beginStep inp).v = s.v := rfl
@[simp] theorem State.beginStep_i (inp : Inputs) : (s.beginStep inp).i = s.i := rfl
@[simp] theorem State.beginStep_pc (inp : Inputs) : (s.beginStep inp).pc = s.pc := rfl
@[simp] theorem State.beginStep_stack (inp : Inputs) : (s.beginStep inp).stack = s.stack := rfl
@[simp] theorem State.beginStep_sp (inp : Inputs) : (s.beginStep inp).sp = s.sp := rfl
@[simp] theorem State.beginStep_mode (inp : Inputs) : (s.beginStep inp).mode = s.mode := rfl
@[simp] theorem State.beginStep_timers (inp : Inputs) : (s.beginStep inp).timers = s.timers := rfl
@[simp] theorem State.beginStep_mem (inp : Inputs) : (s.beginStep inp).mem = s.mem := rfl
@[simp] theorem State.beginStep_fatal (inp : Inputs) : (s.beginStep inp).fatal = s.fatal := rfl
@[simp] theorem State.beginStep_lit (inp : Inputs) : (s.beginStep inp).lit = s.lit := rfl
@[simp] theorem State.beginStep_surface (inp : Inputs) : (s.beginStep inp).surface = s.surface := rfl
@[simp] theorem State.beginStep_cfg (inp : Inputs) : (s.beginStep inp).cfg = s.cfg := rfl
@[simp] theorem State.beginStep_inputs (inp : Inputs) : (s.beginStep inp).inputs = inp := rfl
@[simp] theorem State.beginStep_agenda (inp : Inputs) : (s.beginStep inp).agenda = s.agenda := rfl
@[simp] theorem State.beginStep_draws (inp : Inputs) : (s.beginStep inp).draws = s.draws := rfl
@[simp] theorem State.beginStep_untilTick (inp : Inputs) : (s.beginStep inp).untilTick = s.untilTick := rfl
@[simp] theorem State.beginStep_reply (inp : Inputs) : (s.beginStep inp).reply = .proceed := rfl

/-! ## inMode -/

@[simp] theorem State.inMode_v (m : Mode) : (s.inMode m).v = s.v := rfl
@[simp] theorem State.inMode_i (m : Mode) : (s.inMode m).i = s.i := rfl
@[simp] theorem State.inMode_pc (m : Mode) : (s.inMode m).pc = s.pc := rfl
@[simp] theorem State.inMode_stack (m : Mode) : (s.inMode m).stack = s.stack := rfl
@[simp] theorem State.inMode_sp (m : Mode) : (s.inMode m).sp = s.sp := rfl
@[simp] theorem State.inMode_mode (m : Mode) : (s.inMode m).mode = m := rfl
@[simp] theorem State.inMode_timers (m : Mode) : (s.inMode m).timers = s.timers := rfl
@[simp] theorem State.inMode_mem (m : Mode) : (s.inMode m).mem = s.mem := rfl
@[simp] theorem State.inMode_fatal (m : Mode) : (s.inMode m).fatal = s.fatal := rfl
@[simp] theorem State.inMode_lit (m : Mode) : (s.inMode m).lit = s.lit := rfl
@[simp] theorem State.inMode_surface (m : Mode) : (s.inMode m).surface = s.surface := rfl
@[simp] theorem State.inMode_cfg (m : Mode) : (s.inMode m).cfg = s.cfg := rfl
@[simp] theorem State.inMode_inputs (m : Mode) : (s.inMode m).inputs = s.inputs := rfl
@[simp] theorem State.inMode_agenda (m : Mode) : (s.inMode m).agenda = s.agenda := rfl
@[simp] theorem State.inMode_draws (m : Mode) : (s.inMode m).draws = s.draws := rfl
@[simp] theorem State.inMode_untilTick (m : Mode) : (s.inMode m).untilTick = s.untilTick := rfl
@[simp] theorem State.inMode_reply (m : Mode) : (s.inMode m).reply = s.reply := rfl

/-! ## restoreCore -/

@[simp] theorem State.restoreCore_v (buf : List Byte) :
    (s.restoreCore buf).v = Vector.ofFn fun k => bufferByte buf (4100 + k.val) := rfl
@[simp] theorem State.restoreCore_i (buf : List Byte) : (s.restoreCore buf).i = bufferWord buf 4098 := rfl
@[simp] theorem State.restoreCore_pc (buf : List Byte) : (s.restoreCore buf).pc = bufferWord buf 4096 := rfl
@[simp] theorem State.restoreCore_stack (buf : List Byte) :
    (s.restoreCore buf).stack = Vector.ofFn fun k => bufferWord buf (4116 + 2 * k.val) := rfl
@[simp] theorem State.restoreCore_sp (buf : List Byte) : (s.restoreCore buf).sp = (bufferByte buf 4180).toNat := rfl
@[simp] theorem State.restoreCore_mode (buf : List Byte) :
    (s.restoreCore buf).mode = if bufferByte buf 4181 = 0 then .legacy else .extended := rfl
@[simp] theorem State.restoreCore_timers (buf : List Byte) :
    (s.restoreCore buf).timers = { s.timers with dt := bufferByte buf 4182, st := bufferByte buf 4183 } := rfl
@[simp] theorem State.restoreCore_mem (buf : List Byte) :
    (s.restoreCore buf).mem = Memory.ofBytes (powerOnByte s.cfg) (bufferByte buf) := by
  simp only [State.restoreCore]
@[simp] theorem State.restoreCore_fatal (buf : List Byte) : (s.restoreCore buf).fatal = s.fatal := rfl
@[simp] theorem State.restoreCore_lit (buf : List Byte) : (s.restoreCore buf).lit = s.lit := rfl
@[simp] theorem State.restoreCore_surface (buf : List Byte) : (s.restoreCore buf).surface = s.surface := rfl
@[simp] theorem State.restoreCore_cfg (buf : List Byte) : (s.restoreCore buf).cfg = s.cfg := rfl
@[simp] theorem State.restoreCore_inputs (buf : List Byte) : (s.restoreCore buf).inputs = s.inputs := rfl
@[simp] theorem State.restoreCore_agenda (buf : List Byte) : (s.restoreCore buf).agenda = s.agenda := rfl
@[simp] theorem State.restoreCore_draws (buf : List Byte) : (s.restoreCore buf).draws = s.draws := rfl
@[simp] theorem State.restoreCore_untilTick (buf : List Byte) : (s.restoreCore buf).untilTick = s.untilTick := rfl
@[simp] theorem State.restoreCore_reply (buf : List Byte) : (s.restoreCore buf).reply = s.reply := rfl

/-! ## setSurface -/

@[simp] theorem State.setSurface_v (bytes : List Byte) : (s.setSurface bytes).v = s.v := rfl
@[simp] theorem State.setSurface_i (bytes : List Byte) : (s.setSurface bytes).i = s.i := rfl
@[simp] theorem State.setSurface_pc (bytes : List Byte) : (s.setSurface bytes).pc = s.pc := rfl
@[simp] theorem State.setSurface_stack (bytes : List Byte) : (s.setSurface bytes).stack = s.stack := rfl
@[simp] theorem State.setSurface_sp (bytes : List Byte) : (s.setSurface bytes).sp = s.sp := rfl
@[simp] theorem State.setSurface_mode (bytes : List Byte) : (s.setSurface bytes).mode = s.mode := rfl
@[simp] theorem State.setSurface_timers (bytes : List Byte) : (s.setSurface bytes).timers = s.timers := rfl
@[simp] theorem State.setSurface_mem (bytes : List Byte) : (s.setSurface bytes).mem = s.mem := rfl
@[simp] theorem State.setSurface_fatal (bytes : List Byte) : (s.setSurface bytes).fatal = s.fatal := rfl
@[simp] theorem State.setSurface_lit (bytes : List Byte) : (s.setSurface bytes).lit = s.lit := rfl
@[simp] theorem State.setSurface_surface (bytes : List Byte) : (s.setSurface bytes).surface = exactBytes s.cfg.dispLen bytes := rfl
@[simp] theorem State.setSurface_cfg (bytes : List Byte) : (s.setSurface bytes).cfg = s.cfg := rfl
@[simp] theorem State.setSurface_inputs (bytes : List Byte) : (s.setSurface bytes).inputs = s.inputs := rfl
@[simp] theorem State.setSurface_agenda (bytes : List Byte) : (s.setSurface bytes).agenda = s.agenda := rfl
@[simp] theorem State.setSurface_draws (bytes : List Byte) : (s.setSurface bytes).draws = s.draws := rfl
@[simp] theorem State.setSurface_untilTick (bytes : List Byte) : (s.setSurface bytes).untilTick = s.untilTick := rfl
@[simp] theorem State.setSurface_reply (bytes : List Byte) : (s.setSurface bytes).reply = s.reply := rfl

/-! ## disconnect -/

@[simp] theorem State.disconnect_v : (s.disconnect).v = s.v := rfl
@[simp] theorem State.disconnect_i : (s.disconnect).i = s.i := rfl
@[simp] theorem State.disconnect_pc : (s.disconnect).pc = s.pc := rfl
@[simp] theorem State.disconnect_stack : (s.disconnect).stack = s.stack := rfl
@[simp] theorem State.disconnect_sp : (s.disconnect).sp = s.sp := rfl
@[simp] theorem State.disconnect_mode : (s.disconnect).mode = s.mode := rfl
@[simp] theorem State.disconnect_timers :
    (s.disconnect).timers = { s.timers with closed := true } := rfl
@[simp] theorem State.disconnect_mem : (s.disconnect).mem = s.mem := rfl
@[simp] theorem State.disconnect_fatal : (s.disconnect).fatal = s.fatal := rfl
@[simp] theorem State.disconnect_lit : (s.disconnect).lit = s.lit := rfl
@[simp] theorem State.disconnect_surface : (s.disconnect).surface = s.surface := rfl
@[simp] theorem State.disconnect_cfg : (s.disconnect).cfg = s.cfg := rfl
@[simp] theorem State.disconnect_inputs : (s.disconnect).inputs = s.inputs := rfl
@[simp] theorem State.disconnect_agenda : (s.disconnect).agenda = s.agenda := rfl
@[simp] theorem State.disconnect_draws : (s.disconnect).draws = s.draws := rfl
@[simp] theorem State.disconnect_untilTick : (s.disconnect).untilTick = s.untilTick := rfl
@[simp] theorem State.disconnect_reply : (s.disconnect).reply = s.reply := rfl

/-! ## writeBytes -/

@[simp] theorem State.writeBytes_v (a : Nat) (bs : List Byte) : (s.writeBytes a bs).v = s.v := by
  induction bs generalizing s a with
  | nil => rfl
  | cons b bs ih => simp [State.writeBytes, ih]
@[simp] theorem State.writeBytes_i (a : Nat) (bs : List Byte) : (s.writeBytes a bs).i = s.i := by
  induction bs generalizing s a with
  | nil => rfl
  | cons b bs ih => simp [State.writeBytes, ih]
@[simp] theorem State.writeBytes_pc (a : Nat) (bs : List Byte) : (s.writeBytes a bs).pc = s.pc := by
  induction bs generalizing s a with
  | nil => rfl
  | cons b bs ih => simp [State.writeBytes, ih]
@[simp] theorem State.writeBytes_stack (a : Nat) (bs : List Byte) : (s.writeBytes a bs).stack = s.stack := by
  induction bs generalizing s a with
  | nil => rfl
  | cons b bs ih => simp [State.writeBytes, ih]
@[simp] theorem State.writeBytes_sp (a : Nat) (bs : List Byte) : (s.writeBytes a bs).sp = s.sp := by
  induction bs generalizing s a with
  | nil => rfl
  | cons b bs ih => simp [State.writeBytes, ih]
@[simp] theorem State.writeBytes_mode (a : Nat) (bs : List Byte) : (s.writeBytes a bs).mode = s.mode := by
  induction bs generalizing s a with
  | nil => rfl
  | cons b bs ih => simp [State.writeBytes, ih]
@[simp] theorem State.writeBytes_timers (a : Nat) (bs : List Byte) : (s.writeBytes a bs).timers = s.timers := by
  induction bs generalizing s a with
  | nil => rfl
  | cons b bs ih => simp [State.writeBytes, ih]
@[simp] theorem State.writeBytes_fatal (a : Nat) (bs : List Byte) : (s.writeBytes a bs).fatal = s.fatal := by
  induction bs generalizing s a with
  | nil => rfl
  | cons b bs ih => simp [State.writeBytes, ih]
@[simp] theorem State.writeBytes_lit (a : Nat) (bs : List Byte) : (s.writeBytes a bs).lit = s.lit := by
  induction bs generalizing s a with
  | nil => rfl
  | cons b bs ih => simp [State.writeBytes, ih]
@[simp] theorem State.writeBytes_surface (a : Nat) (bs : List Byte) : (s.writeBytes a bs).surface = s.surface := by
  induction bs generalizing s a with
  | nil => rfl
  | cons b bs ih => simp [State.writeBytes, ih]
@[simp] theorem State.writeBytes_cfg (a : Nat) (bs : List Byte) : (s.writeBytes a bs).cfg = s.cfg := by
  induction bs generalizing s a with
  | nil => rfl
  | cons b bs ih => simp [State.writeBytes, ih]
@[simp] theorem State.writeBytes_inputs (a : Nat) (bs : List Byte) : (s.writeBytes a bs).inputs = s.inputs := by
  induction bs generalizing s a with
  | nil => rfl
  | cons b bs ih => simp [State.writeBytes, ih]
@[simp] theorem State.writeBytes_agenda (a : Nat) (bs : List Byte) : (s.writeBytes a bs).agenda = s.agenda := by
  induction bs generalizing s a with
  | nil => rfl
  | cons b bs ih => simp [State.writeBytes, ih]
@[simp] theorem State.writeBytes_draws (a : Nat) (bs : List Byte) : (s.writeBytes a bs).draws = s.draws := by
  induction bs generalizing s a with
  | nil => rfl
  | cons b bs ih => simp [State.writeBytes, ih]
@[simp] theorem State.writeBytes_untilTick (a : Nat) (bs : List Byte) : (s.writeBytes a bs).untilTick = s.untilTick := by
  induction bs generalizing s a with
  | nil => rfl
  | cons b bs ih => simp [State.writeBytes, ih]
@[simp] theorem State.writeBytes_reply (a : Nat) (bs : List Byte) : (s.writeBytes a bs).reply = s.reply := by
  induction bs generalizing s a with
  | nil => rfl
  | cons b bs ih => simp [State.writeBytes, ih]

/-! ## advanceI -/

@[simp] theorem State.advanceI_v (k : Nat) : (s.advanceI k).v = s.v := by
  unfold State.advanceI; cases s.mode <;> rfl
theorem State.advanceI_of_legacy (k : Nat) (h : s.mode = .legacy) :
    s.advanceI k = s.setI (s.i + BitVec.ofNat 16 k) := by
  unfold State.advanceI; rw [h]
theorem State.advanceI_of_extended (k : Nat) (h : s.mode = .extended) : s.advanceI k = s := by
  unfold State.advanceI; rw [h]
@[simp] theorem State.advanceI_pc (k : Nat) : (s.advanceI k).pc = s.pc := by
  unfold State.advanceI; cases s.mode <;> rfl
@[simp] theorem State.advanceI_stack (k : Nat) : (s.advanceI k).stack = s.stack := by
  unfold State.advanceI; cases s.mode <;> rfl
@[simp] theorem State.advanceI_sp (k : Nat) : (s.advanceI k).sp = s.sp := by
  unfold State.advanceI; cases s.mode <;> rfl
@[simp] theorem State.advanceI_mode (k : Nat) : (s.advanceI k).mode = s.mode := by
  unfold State.advanceI; cases h : s.mode <;> exact h
@[simp] theorem State.advanceI_timers (k : Nat) : (s.advanceI k).timers = s.timers := by
  unfold State.advanceI; cases s.mode <;> rfl
@[simp] theorem State.advanceI_mem (k : Nat) : (s.advanceI k).mem = s.mem := by
  unfold State.advanceI; cases s.mode <;> rfl
@[simp] theorem State.advanceI_fatal (k : Nat) : (s.advanceI k).fatal = s.fatal := by
  unfold State.advanceI; cases s.mode <;> rfl
@[simp] theorem State.advanceI_lit (k : Nat) : (s.advanceI k).lit = s.lit := by
  unfold State.advanceI; cases s.mode <;> rfl
@[simp] theorem State.advanceI_surface (k : Nat) : (s.advanceI k).surface = s.surface := by
  unfold State.advanceI; cases s.mode <;> rfl
@[simp] theorem State.advanceI_cfg (k : Nat) : (s.advanceI k).cfg = s.cfg := by
  unfold State.advanceI; cases s.mode <;> rfl
@[simp] theorem State.advanceI_inputs (k : Nat) : (s.advanceI k).inputs = s.inputs := by
  unfold State.advanceI; cases s.mode <;> rfl
@[simp] theorem State.advanceI_agenda (k : Nat) : (s.advanceI k).agenda = s.agenda := by
  unfold State.advanceI; cases s.mode <;> rfl
@[simp] theorem State.advanceI_draws (k : Nat) : (s.advanceI k).draws = s.draws := by
  unfold State.advanceI; cases s.mode <;> rfl
@[simp] theorem State.advanceI_untilTick (k : Nat) : (s.advanceI k).untilTick = s.untilTick := by
  unfold State.advanceI; cases s.mode <;> rfl
@[simp] theorem State.advanceI_reply (k : Nat) : (s.advanceI k).reply = s.reply := by
  unfold State.advanceI; cases s.mode <;> rfl

/-! ## takeKey -/

@[simp] theorem State.takeKey_i (x : Reg) : (s.takeKey x).i = s.i := by
  unfold State.takeKey; split <;> rfl
@[simp] theorem State.takeKey_stack (x : Reg) : (s.takeKey x).stack = s.stack := by
  unfold State.takeKey; split <;> rfl
@[simp] theorem State.takeKey_sp (x : Reg) : (s.takeKey x).sp = s.sp := by
  unfold State.takeKey; split <;> rfl
@[simp] theorem State.takeKey_mode (x : Reg) : (s.takeKey x).mode = s.mode := by
  unfold State.takeKey; split <;> rfl
@[simp] theorem State.takeKey_timers (x : Reg) : (s.takeKey x).timers = s.timers := by
  unfold State.takeKey; split <;> rfl
@[simp] theorem State.takeKey_mem (x : Reg) : (s.takeKey x).mem = s.mem := by
  unfold State.takeKey; split <;> rfl
@[simp] theorem State.takeKey_fatal (x : Reg) : (s.takeKey x).fatal = s.fatal := by
  unfold State.takeKey; split <;> rfl
@[simp] theorem State.takeKey_lit (x : Reg) : (s.takeKey x).lit = s.lit := by
  unfold State.takeKey; split <;> rfl
@[simp] theorem State.takeKey_surface (x : Reg) : (s.takeKey x).surface = s.surface := by
  unfold State.takeKey; split <;> rfl
@[simp] theorem State.takeKey_cfg (x : Reg) : (s.takeKey x).cfg = s.cfg := by
  unfold State.takeKey; split <;> rfl
@[simp] theorem State.takeKey_inputs (x : Reg) : (s.takeKey x).inputs = s.inputs := by
  unfold State.takeKey; split <;> rfl
@[simp] theorem State.takeKey_agenda (x : Reg) : (s.takeKey x).agenda = s.agenda := by
  unfold State.takeKey; split <;> rfl
@[simp] theorem State.takeKey_draws (x : Reg) : (s.takeKey x).draws = s.draws := by
  unfold State.takeKey; split <;> rfl
@[simp] theorem State.takeKey_untilTick (x : Reg) : (s.takeKey x).untilTick = s.untilTick := by
  unfold State.takeKey; split <;> rfl
@[simp] theorem State.takeKey_reply (x : Reg) : (s.takeKey x).reply = s.reply := by
  unfold State.takeKey; split <;> rfl

/-! ## sendSignal -/

@[simp] theorem State.sendSignal_v (sig : Signal) : (s.sendSignal sig).v = s.v := by
  unfold State.sendSignal; split <;> rfl
@[simp] theorem State.sendSignal_i (sig : Signal) : (s.sendSignal sig).i = s.i := by
  unfold State.sendSignal; split <;> rfl
@[simp] theorem State.sendSignal_pc (sig : Signal) : (s.sendSignal sig).pc = s.pc := by
  unfold State.sendSignal; split <;> rfl
@[simp] theorem State.sendSignal_stack (sig : Signal) : (s.sendSignal sig).stack = s.stack := by
  unfold State.sendSignal; split <;> rfl
@[simp] theorem State.sendSignal_sp (sig : Signal) : (s.sendSignal sig).sp = s.sp := by
  unfold State.sendSignal; split <;> rfl
@[simp] theorem State.sendSignal_mode (sig : Signal) : (s.sendSignal sig).mode = s.mode := by
  unfold State.sendSignal; split <;> rfl
@[simp] theorem State.sendSignal_mem (sig : Signal) : (s.sendSignal sig).mem = s.mem := by
  unfold State.sendSignal; split <;> rfl
@[simp] theorem State.sendSignal_fatal (sig : Signal) : (s.sendSignal sig).fatal = s.fatal := by
  unfold State.sendSignal; split <;> rfl
@[simp] theorem State.sendSignal_lit (sig : Signal) : (s.sendSignal sig).lit = s.lit := by
  unfold State.sendSignal; split <;> rfl
@[simp] theorem State.sendSignal_surface (sig : Signal) : (s.sendSignal sig).surface = s.surface := by
  unfold State.sendSignal; split <;> rfl
@[simp] theorem State.sendSignal_cfg (sig : Signal) : (s.sendSignal sig).cfg = s.cfg := by
  unfold State.sendSignal; split <;> rfl
@[simp] theorem State.sendSignal_inputs (sig : Signal) : (s.sendSignal sig).inputs = s.inputs := by
  unfold State.sendSignal; split <;> rfl
@[simp] theorem State.sendSignal_agenda (sig : Signal) : (s.sendSignal sig).agenda = s.agenda := by
  unfold State.sendSignal; split <;> rfl
@[simp] theorem State.sendSignal_draws (sig : Signal) : (s.sendSignal sig).draws = s.draws := by
  unfold State.sendSignal; split <;> rfl
@[simp] theorem State.sendSignal_untilTick (sig : Signal) : (s.sendSignal sig).untilTick = s.untilTick := by
  unfold State.sendSignal; split <;> rfl
@[simp] theorem State.sendSignal_reply (sig : Signal) : (s.sendSignal sig).reply = s.reply := by
  unfold State.sendSignal; split <;> rfl

/-! ## tick -/

@[simp] theorem State.tick_v : s.tick.v = s.v := by
  unfold State.tick; split <;> rfl
@[simp] theorem State.tick_i : s.tick.i = s.i := by
  unfold State.tick; split <;> rfl
@[simp] theorem State.tick_pc : s.tick.pc = s.pc := by
  unfold State.tick; split <;> rfl
@[simp] theorem State.tick_stack : s.tick.stack = s.stack := by
  unfold State.tick; split <;> rfl
@[simp] theorem State.tick_sp : s.tick.sp = s.sp := by
  unfold State.tick; split <;> rfl
@[simp] theorem State.tick_mode : s.tick.mode = s.mode := by
  unfold State.tick; split <;> rfl
@[simp] theorem State.tick_timers : s.tick.timers = if s.fatal then s.timers else s.timers.tick := by
  unfold State.tick; split <;> rfl
@[simp] theorem State.tick_mem : s.tick.mem = s.mem := by
  unfold State.tick; split <;> rfl
@[simp] theorem State.tick_fatal : s.tick.fatal = s.fatal := by
  unfold State.tick; split <;> rfl
@[simp] theorem State.tick_lit : s.tick.lit = s.lit := by
  unfold State.tick; split <;> rfl
@[simp] theorem State.tick_surface : s.tick.surface = s.surface := by
  unfold State.tick; split <;> rfl
@[simp] theorem State.tick_cfg : s.tick.cfg = s.cfg := by
  unfold State.tick; split <;> rfl
@[simp] theorem State.tick_inputs : s.tick.inputs = s.inputs := by
  unfold State.tick; split <;> rfl
@[simp] theorem State.tick_agenda : s.tick.agenda = s.agenda := by
  unfold State.tick; split <;> rfl
@[simp] theorem State.tick_draws : s.tick.draws = s.draws := by
  unfold State.tick; split <;> rfl
@[simp] theorem State.tick_untilTick : s.tick.untilTick = s.untilTick := by
  unfold State.tick; split <;> rfl
@[simp] theorem State.tick_reply : s.tick.reply = s.reply := by
  unfold State.tick; split <;> rfl

/-! ## restorePersistentFields -/

@[simp] theorem State.restorePersistentFields_v (bytes : List Byte) :
    (s.restorePersistentFields bytes).v = s.v := by
  unfold State.restorePersistentFields; split <;> rfl
@[simp] theorem State.restorePersistentFields_i (bytes : List Byte) :
    (s.restorePersistentFields bytes).i = s.i := by
  unfold State.restorePersistentFields; split <;> rfl
@[simp] theorem State.restorePersistentFields_pc (bytes : List Byte) :
    (s.restorePersistentFields bytes).pc = s.pc := by
  unfold State.restorePersistentFields; split <;> rfl
@[simp] theorem State.restorePersistentFields_stack (bytes : List Byte) :
    (s.restorePersistentFields bytes).stack = s.stack := by
  unfold State.restorePersistentFields; split <;> rfl
@[simp] theorem State.restorePersistentFields_sp (bytes : List Byte) :
    (s.restorePersistentFields bytes).sp = s.sp := by
  unfold State.restorePersistentFields; split <;> rfl
@[simp] theorem State.restorePersistentFields_mode (bytes : List Byte) :
    (s.restorePersistentFields bytes).mode = s.mode := by
  unfold State.restorePersistentFields; split <;> rfl
@[simp] theorem State.restorePersistentFields_timers (bytes : List Byte) :
    (s.restorePersistentFields bytes).timers = s.timers := by
  unfold State.restorePersistentFields; split <;> rfl
@[simp] theorem State.restorePersistentFields_mem (bytes : List Byte) :
    (s.restorePersistentFields bytes).mem = s.mem := by
  unfold State.restorePersistentFields; split <;> rfl
@[simp] theorem State.restorePersistentFields_fatal (bytes : List Byte) :
    (s.restorePersistentFields bytes).fatal = s.fatal := by
  unfold State.restorePersistentFields; split <;> rfl
@[simp] theorem State.restorePersistentFields_cfg (bytes : List Byte) :
    (s.restorePersistentFields bytes).cfg = s.cfg := by
  unfold State.restorePersistentFields; split <;> rfl
@[simp] theorem State.restorePersistentFields_inputs (bytes : List Byte) :
    (s.restorePersistentFields bytes).inputs = s.inputs := by
  unfold State.restorePersistentFields; split <;> rfl
@[simp] theorem State.restorePersistentFields_agenda (bytes : List Byte) :
    (s.restorePersistentFields bytes).agenda = s.agenda := by
  unfold State.restorePersistentFields; split <;> rfl
@[simp] theorem State.restorePersistentFields_untilTick (bytes : List Byte) :
    (s.restorePersistentFields bytes).untilTick = s.untilTick := by
  unfold State.restorePersistentFields; split <;> rfl
@[simp] theorem State.restorePersistentFields_reply (bytes : List Byte) :
    (s.restorePersistentFields bytes).reply = s.reply := by
  unfold State.restorePersistentFields; split <;> rfl

end Sys2Proof.Machine
end

