-- ==== Sys2Proof/Laws/Display.lean ====
section
/-! SUPPORT. The laws of the framebuffer: what inverting a pixel does, and what the queries of a sprite are. -/

namespace Sys2Proof.Machine

theorem litWf_iff (c : Config) (lit : List Nat) :
    litWf c lit = true ↔ lit.Pairwise (· < ·) ∧ ∀ p ∈ lit, p < c.displayWidth * c.displayHeight := by
  simp [litWf]

/-- What is lit after a pixel is inverted. -/
theorem mem_togglePixel (p q : Nat) (lit : List Nat) (h : lit.Pairwise (· < ·)) :
    q ∈ togglePixel p lit ↔ if q = p then p ∉ lit else q ∈ lit := by
  induction lit with
  | nil => simp [togglePixel]
  | cons r rs ih =>
    obtain ⟨hlt, hrs⟩ := List.pairwise_cons.1 h
    have ih := ih hrs
    simp only [togglePixel]
    split
    · have : p ∉ rs := fun hp => by have := hlt p hp; omega
      simp only [List.mem_cons]
      grind
    · split
      · subst_vars
        have : r ∉ rs := fun hp => by have := hlt r hp; omega
        simp only [List.mem_cons]
        grind
      · simp only [List.mem_cons, ih]
        grind

theorem togglePixel_pairwise (p : Nat) (lit : List Nat) (h : lit.Pairwise (· < ·)) :
    (togglePixel p lit).Pairwise (· < ·) := by
  induction lit with
  | nil => simp [togglePixel]
  | cons r rs ih =>
    obtain ⟨hlt, hrs⟩ := List.pairwise_cons.1 h
    simp only [togglePixel]
    split
    · refine List.pairwise_cons.2 ⟨fun q hq => ?_, h⟩
      rcases List.mem_cons.1 hq with rfl | hq
      · assumption
      · exact lt_trans ‹p < r› (hlt q hq)
    · split
      · exact hrs
      · refine List.pairwise_cons.2 ⟨fun q hq => ?_, ih hrs⟩
        rw [mem_togglePixel p q rs hrs] at hq
        split at hq
        · omega
        · exact hlt q hq

/-- A pixel's number names its column and row. -/
theorem pixelNumber_inj (w : Nat) (p q : Nat × Nat) (hp : p.1 < w) (hq : q.1 < w)
    (h : pixelNumber w p = pixelNumber w q) : p = q := by
  unfold pixelNumber at h
  have hw : 0 < w := by omega
  have h1 := congrArg (· % w) h
  have h2 := congrArg (· / w) h
  simp [Nat.mod_eq_of_lt hp, Nat.mod_eq_of_lt hq] at h1
  simp [Nat.mul_comm _ w, Nat.mul_add_div hw, Nat.div_eq_of_lt hp, Nat.div_eq_of_lt hq] at h2
  exact Prod.ext h1 h2

theorem pixelNumber_lt (w h : Nat) (p : Nat × Nat) (hc : p.1 < w) (hr : p.2 < h) : pixelNumber w p < w * h := by
  unfold pixelNumber
  calc p.2 * w + p.1 < p.2 * w + w := by omega
    _ = (p.2 + 1) * w := by ring
    _ ≤ h * w := Nat.mul_le_mul_right _ hr
    _ = w * h := Nat.mul_comm _ _

/-- Everything a sequence of `draw` queries on distinct pixels does: each pixel is inverted, the others keep their
state, and the Boolean says whether one of them was lit. -/
theorem drawPixels_spec (w : Nat) (ps : List (Nat × Nat)) (lit : List Nat) (hlit : lit.Pairwise (· < ·))
    (hps : (ps.map (pixelNumber w)).Nodup) :
    (drawPixels w ps lit).1.Pairwise (· < ·) ∧
    (∀ q, q ∈ (drawPixels w ps lit).1 ↔ (q ∈ lit ↔ q ∉ ps.map (pixelNumber w))) ∧
    ((drawPixels w ps lit).2 = true ↔ ∃ p ∈ ps, pixelNumber w p ∈ lit) := by
  induction ps generalizing lit with
  | nil => simp [drawPixels, hlit]
  | cons p ps ih =>
    simp only [List.map_cons, List.nodup_cons] at hps
    obtain ⟨h1, h2, h3⟩ := ih (togglePixel (pixelNumber w p) lit) (togglePixel_pairwise _ _ hlit) hps.2
    refine ⟨h1, fun q => ?_, ?_⟩
    · simp only [drawPixels, h2 q, mem_togglePixel _ _ _ hlit, List.map_cons, List.mem_cons]
      by_cases hq : q = pixelNumber w p
      · subst hq; simp [hps.1]
      · simp [hq]
    · simp only [drawPixels, Bool.or_eq_true, decide_eq_true_eq, h3, List.mem_cons, exists_eq_or_imp]
      refine or_congr_right (exists_congr fun r => and_congr_right fun hr => ?_)
      rw [mem_togglePixel _ _ _ hlit, if_neg]
      intro e
      exact hps.1 (e ▸ List.mem_map_of_mem hr)

/-- The queries of one sprite row. -/
theorem mem_rowPixels (w x0 row : Nat) (b : Byte) (p : Nat × Nat) :
    p ∈ rowPixels w x0 row b ↔ p.2 = row ∧ x0 ≤ p.1 ∧ p.1 < x0 + 8 ∧ p.1 < w ∧ b.getLsbD (7 - (p.1 - x0)) = true := by
  obtain ⟨c, r⟩ := p
  simp only [rowPixels, List.mem_filterMap, List.mem_range, Option.ite_none_right_eq_some, Option.some.injEq,
    Prod.mk.injEq]
  constructor
  · rintro ⟨j, hj, ⟨hw, hb⟩, rfl, rfl⟩
    exact ⟨rfl, by omega, by omega, hw, by simpa using hb⟩
  · rintro ⟨rfl, h1, h2, h3, h4⟩
    exact ⟨c - x0, by omega, ⟨by omega, h4⟩, by omega, rfl⟩

/-- The queries of a sprite: the set bits inside the clip. -/
theorem mem_spritePixels (w h x0 y0 : Nat) (bs : List Byte) (p : Nat × Nat) :
    p ∈ spritePixels w h x0 y0 bs ↔
      p.1 < w ∧ p.2 < h ∧ x0 ≤ p.1 ∧ p.1 < x0 + 8 ∧ y0 ≤ p.2 ∧ p.2 < y0 + bs.length ∧
        (bs.getD (p.2 - y0) 0).getLsbD (7 - (p.1 - x0)) = true := by
  induction bs generalizing y0 with
  | nil =>
    simp only [spritePixels, List.not_mem_nil, List.length_nil, false_iff]
    omega
  | cons b bs ih =>
    rw [spritePixels]
    split
    · rw [List.mem_append, mem_rowPixels, ih]
      by_cases hy : p.2 = y0
      · simp only [hy, Nat.sub_self, List.length_cons]
        have : ¬ (y0 + 1 ≤ y0) := by omega
        simp [this]
        tauto
      · obtain hlt | ⟨j, hj⟩ : p.2 < y0 ∨ ∃ j, p.2 = y0 + 1 + j := by
          rcases lt_or_ge p.2 y0 with h | h
          · exact .inl h
          · exact .inr ⟨p.2 - (y0 + 1), by omega⟩
        · have h1 : ¬ y0 + 1 ≤ p.2 := by omega
          have h2 : ¬ y0 ≤ p.2 := by omega
          simp [hy, h1, h2]
        · have e1 : p.2 - (y0 + 1) = j := by omega
          have e2 : p.2 - y0 = j + 1 := by omega
          simp only [e1, e2, hy, false_and, false_or, List.length_cons, List.getD_cons_succ]
          constructor <;> rintro ⟨a, b, c, d, e, f, g⟩ <;> exact ⟨a, b, c, d, by omega, by omega, g⟩
    · simp only [List.not_mem_nil, false_iff]
      omega

/-- No pixel is queried twice (R122). -/
theorem spritePixels_nodup (w h x0 y0 : Nat) (bs : List Byte) : (spritePixels w h x0 y0 bs).Nodup := by
  induction bs generalizing y0 with
  | nil => simp [spritePixels]
  | cons b bs ih =>
    rw [spritePixels]
    split
    · refine List.Nodup.append ?_ (ih _) ?_
      · refine List.Nodup.filterMap ?_ List.nodup_range
        rintro a a' p h1 h2
        simp only [Option.mem_def, Option.ite_none_right_eq_some, Option.some.injEq] at h1 h2
        have := congrArg Prod.fst (h1.2.trans h2.2.symm)
        simpa using this
      · intro p h1 h2
        rw [mem_rowPixels] at h1
        rw [mem_spritePixels] at h2
        omega
    · simp

/-- No pixel number is queried twice. -/
theorem spritePixels_numbers_nodup (w h x0 y0 : Nat) (bs : List Byte) :
    ((spritePixels w h x0 y0 bs).map (pixelNumber w)).Nodup := by
  refine List.Nodup.map_on (fun p hp q hq e => ?_) (spritePixels_nodup w h x0 y0 bs)
  exact pixelNumber_inj w p q ((mem_spritePixels _ _ _ _ _ _).1 hp).1 ((mem_spritePixels _ _ _ _ _ _).1 hq).1 e

end Sys2Proof.Machine
end

