-- ==== Sys2Proof/Laws/Memory.lean ====
section
/-! SUPPORT. The laws of memory: read after write, the canonical form every operation keeps, and that equal bytes are equal data. -/

namespace Sys2Proof.Machine

variable (bg : Nat → Byte)

/-- The canonical form as a proposition. -/
theorem Memory.wf_iff (m : Memory) :
    m.wf bg = true ↔ m.Pairwise (fun p q => p.1 < q.1) ∧ ∀ p ∈ m, p.1 < memSize ∧ p.2 ≠ bg p.1 := by
  simp [Memory.wf]

theorem Memory.wf_nil : Memory.wf bg [] = true := by simp [Memory.wf]

/-- An entry put before a canonical memory whose entries all lie above it. -/
theorem Memory.wf_cons (p : Host.Cell) (m : Memory) :
    Memory.wf bg (p :: m) = true ↔
      (∀ q ∈ m, p.1 < q.1) ∧ p.1 < memSize ∧ p.2 ≠ bg p.1 ∧ Memory.wf bg m = true := by
  simp only [Memory.wf_iff, List.pairwise_cons, List.mem_cons, forall_eq_or_imp]
  tauto

theorem Memory.read_of_lt (m : Memory) (a : Nat) (h : ∀ q ∈ m, a < q.1) : m.read bg a = bg a := by
  induction m with
  | nil => rfl
  | cons p m ih =>
    have hp := h p (by simp)
    rw [Memory.read, if_neg (by omega), ih fun q hq => h q (by simp [hq])]

/-- Read after write. -/
theorem Memory.read_write (m : Memory) (hm : m.wf bg = true) (a c : Nat) (b : Byte) :
    (m.write bg a b).read bg c = if c = a then b else m.read bg c := by
  induction m with
  | nil =>
    simp only [Memory.write, Memory.read]
    split <;> grind [Memory.read]
  | cons p m ih =>
    obtain ⟨k, d⟩ := p
    obtain ⟨hlt, -, -, hm'⟩ := (Memory.wf_cons bg _ _).1 hm
    have ih := ih hm'
    have hread : Memory.read bg m k = bg k := Memory.read_of_lt bg m k hlt
    have hlow (h : a < k) : Memory.read bg m a = bg a :=
      Memory.read_of_lt bg m a fun q hq => h.trans (hlt q hq)
    simp only [Memory.write]
    split
    · have := hlow ‹_›
      split <;> grind [Memory.read]
    · split
      · split <;> grind [Memory.read]
      · grind [Memory.read]

/-- Where a written memory's addresses come from. -/
theorem Memory.mem_write (m : Memory) (a : Nat) (b : Byte) (q : Host.Cell) (h : q ∈ m.write bg a b) :
    q ∈ m ∨ (q = (a, b) ∧ b ≠ bg a) := by
  induction m with
  | nil =>
    simp only [Memory.write] at h
    split at h <;> simp_all
  | cons p m ih =>
    obtain ⟨k, d⟩ := p
    simp only [Memory.write] at h
    split at h
    · split at h <;> simp_all; tauto
    · split at h
      · split at h <;> simp_all; tauto
      · rcases List.mem_cons.1 h with h | h
        · simp [h]
        · rcases ih h with h | h <;> simp [h]

/-- A write inside memory keeps the canonical form. -/
theorem Memory.wf_write (m : Memory) (hm : m.wf bg = true) (a : Nat) (ha : a < memSize) (b : Byte) :
    (m.write bg a b).wf bg = true := by
  induction m with
  | nil =>
    simp only [Memory.write]
    split
    · exact hm
    · simpa [Memory.wf] using ⟨ha, by assumption⟩
  | cons p m ih =>
    obtain ⟨k, d⟩ := p
    have hcons := hm
    obtain ⟨hlt, hk, hd, hm'⟩ := (Memory.wf_cons bg _ _).1 hm
    simp only [Memory.write]
    split
    · split
      · exact hm
      · refine (Memory.wf_cons bg _ _).2 ⟨?_, ha, by assumption, hm⟩
        rintro q hq
        rcases List.mem_cons.1 hq with rfl | hq
        · assumption
        · exact lt_trans ‹a < k› (hlt q hq)
    · split
      · subst_vars
        split
        · exact hm'
        · exact (Memory.wf_cons bg _ _).2 ⟨hlt, ha, by assumption, hm'⟩
      · refine (Memory.wf_cons bg _ _).2 ⟨fun q hq => ?_, hk, hd, ih hm'⟩
        rcases Memory.mem_write bg m a b q hq with h | ⟨rfl, -⟩
        · exact hlt q h
        · simp only; omega

/-- Two canonical memories that read the same are the same list. -/
theorem Memory.ext_read (m m' : Memory) (hm : m.wf bg = true) (hm' : m'.wf bg = true)
    (h : ∀ a < memSize, m.read bg a = m'.read bg a) : m = m' := by
  induction m generalizing m' with
  | nil =>
    cases m' with
    | nil => rfl
    | cons p m' =>
      obtain ⟨-, hp, hd, -⟩ := (Memory.wf_cons bg _ _).1 hm'
      have := h p.1 hp
      simp [Memory.read] at this
      exact absurd this.symm hd
  | cons p m ih =>
    obtain ⟨hlt, hp, hd, hwf⟩ := (Memory.wf_cons bg _ _).1 hm
    cases m' with
    | nil =>
      have := h p.1 hp
      simp [Memory.read] at this
      exact absurd this hd
    | cons q m' =>
      obtain ⟨hlt', hq, hd', hwf'⟩ := (Memory.wf_cons bg _ _).1 hm'
      have hkey : p.1 = q.1 := by
        rcases lt_trichotomy p.1 q.1 with hl | he | hl
        · have := h p.1 hp
          rw [Memory.read_of_lt bg (q :: m') p.1 (by
            rintro r hr
            rcases List.mem_cons.1 hr with rfl | hr
            · exact hl
            · exact hl.trans (hlt' r hr))] at this
          simp [Memory.read] at this
          exact absurd this hd
        · exact he
        · have := h q.1 hq
          rw [Memory.read_of_lt bg (p :: m) q.1 (by
            rintro r hr
            rcases List.mem_cons.1 hr with rfl | hr
            · exact hl
            · exact hl.trans (hlt r hr))] at this
          simp [Memory.read] at this
          exact absurd this.symm hd'
      have hval : p.2 = q.2 := by
        have := h p.1 hp
        simpa [Memory.read, hkey] using this
      have hpq : p = q := Prod.ext hkey hval
      subst hpq
      congr 1
      refine ih m' hwf hwf' fun a ha => ?_
      by_cases hap : a = p.1
      · subst hap
        rw [Memory.read_of_lt bg m _ hlt, Memory.read_of_lt bg m' _ hlt']
      · simpa [Memory.read, hap] using h a ha

/-! ## The memory made from a function -/

theorem Memory.mem_ofBytes (f : Nat → Byte) (p : Host.Cell) :
    p ∈ Memory.ofBytes bg f ↔ p.1 < memSize ∧ f p.1 ≠ bg p.1 ∧ p.2 = f p.1 := by
  obtain ⟨k, d⟩ := p
  simp only [Memory.ofBytes, List.mem_filterMap, List.mem_range, Option.ite_none_left_eq_some, Option.some.injEq,
    Prod.mk.injEq]
  constructor
  · rintro ⟨a, ha, hne, rfl, rfl⟩; exact ⟨ha, hne, rfl⟩
  · rintro ⟨ha, hne, rfl⟩; exact ⟨k, ha, hne, rfl, rfl⟩

theorem Memory.wf_ofBytes (f : Nat → Byte) : (Memory.ofBytes bg f).wf bg = true := by
  refine (Memory.wf_iff bg _).2 ⟨?_, fun p hp => ?_⟩
  · unfold Memory.ofBytes
    rw [List.pairwise_filterMap]
    refine List.pairwise_lt_range.imp fun {a b} hab x hx y hy => ?_
    split at hx <;> split at hy <;> simp_all
    obtain rfl := hx
    obtain rfl := hy
    exact hab
  · obtain ⟨h1, h2, h3⟩ := (Memory.mem_ofBytes bg f p).1 hp
    exact ⟨h1, h3 ▸ h2⟩

/-- A canonical memory reads the entry it lists. -/
theorem Memory.read_of_mem (m : Memory) (hm : m.wf bg = true) (p : Host.Cell) (hp : p ∈ m) : m.read bg p.1 = p.2 := by
  induction m with
  | nil => simp at hp
  | cons q m ih =>
    obtain ⟨hlt, -, -, hwf⟩ := (Memory.wf_cons bg _ _).1 hm
    rcases List.mem_cons.1 hp with rfl | hp
    · simp [Memory.read]
    · have := hlt p hp
      rw [Memory.read, if_neg (by omega), ih hwf hp]

/-- An address a memory does not list reads as unlisted. -/
theorem Memory.read_of_not_mem (m : Memory) (a : Nat) (h : ∀ p ∈ m, p.1 ≠ a) : m.read bg a = bg a := by
  induction m with
  | nil => rfl
  | cons q m ih =>
    have := h q (by simp)
    rw [Memory.read, if_neg (fun e => this e.symm), ih fun p hp => h p (by simp [hp])]

theorem Memory.read_ofBytes (f : Nat → Byte) (a : Nat) (ha : a < memSize) : (Memory.ofBytes bg f).read bg a = f a := by
  by_cases hf : f a = bg a
  · rw [hf, Memory.read_of_not_mem]
    rintro p hp rfl
    exact ((Memory.mem_ofBytes bg f p).1 hp).2.1 hf
  · exact Memory.read_of_mem bg _ (Memory.wf_ofBytes bg f) (a, f a) ((Memory.mem_ofBytes bg f _).2 ⟨ha, hf, rfl⟩)

/-! ## Memory in a state -/

/-- The memory of a state is canonical. -/
abbrev State.memOk (s : State) : Prop := s.mem.wf (powerOnByte s.cfg) = true

theorem State.readByte_writeByte (s : State) (hs : s.memOk) (a c : Nat) (b : Byte) :
    (s.writeByte a b).readByte c = if c = a then b else s.readByte c :=
  Memory.read_write _ _ hs a c b

theorem State.memOk_writeByte (s : State) (hs : s.memOk) (a : Nat) (ha : a < memSize) (b : Byte) :
    (s.writeByte a b).memOk :=
  Memory.wf_write _ _ hs a ha b

/-- Everything `writeBytes` does to memory. -/
theorem State.writeBytes_spec (s : State) (hs : s.memOk) (a : Nat) (bs : List Byte) (ha : a + bs.length ≤ memSize) :
    (s.writeBytes a bs).memOk ∧
      ∀ c, (s.writeBytes a bs).readByte c =
        if a ≤ c ∧ c < a + bs.length then bs.getD (c - a) 0 else s.readByte c := by
  induction bs generalizing s a with
  | nil => exact ⟨hs, fun c => by simp only [State.writeBytes, List.length_nil]; rw [if_neg (by omega)]⟩
  | cons b bs ih =>
    simp only [List.length_cons] at ha
    obtain ⟨h1, h2⟩ := ih (s.writeByte a b) (s.memOk_writeByte hs a (by omega) b) (a + 1) (by omega)
    refine ⟨h1, fun c => ?_⟩
    simp only [State.writeBytes, h2, List.length_cons, State.readByte_writeByte s hs]
    by_cases hc : c = a
    · subst hc
      rw [if_neg (by omega), if_pos rfl, if_pos (by omega)]
      simp
    · rw [if_neg hc]
      by_cases hin : a + 1 ≤ c ∧ c < a + 1 + bs.length
      · rw [if_pos hin, if_pos (by omega)]
        obtain ⟨j, rfl⟩ : ∃ j, c = a + 1 + j := ⟨c - (a + 1), by omega⟩
        have e1 : a + 1 + j - (a + 1) = j := by omega
        have e2 : a + 1 + j - a = j + 1 := by omega
        simp [e1, e2]
      · rw [if_neg hin, if_neg (by omega)]

/-- `writeBytes` changes nothing but memory. -/
theorem State.writeBytes_eq (s : State) (a : Nat) (bs : List Byte) :
    s.writeBytes a bs = { s with mem := (s.writeBytes a bs).mem } := by
  induction bs generalizing s a with
  | nil => rfl
  | cons b bs ih => exact ih (s.writeByte a b) (a + 1)

/-- Only memory and the parameters decide what a byte reads as. -/
theorem State.readByte_congr (s t : State) (h : t.mem = s.mem) (hc : t.cfg = s.cfg) (a : Nat) :
    t.readByte a = s.readByte a := by
  simp [State.readByte, h, hc]

end Sys2Proof.Machine
end

