-- ==== Sys2Proof/Laws/Regs.lean ====
section
/-! SUPPORT. Registers, stack slots, bytes and pixels seen through their accessors: read after write, and that every other update leaves them alone. -/

namespace Sys2Proof.Machine

variable (s : State)

/-! ## Read after write -/

@[simp] theorem State.getV_setV_same (x : Reg) (b : Byte) : (s.setV x b).getV x = b := by simp [State.getV]

theorem State.getV_setV_ne (x r : Reg) (b : Byte) (h : r ≠ x) : (s.setV x b).getV r = s.getV r := by
  have : x.val ≠ r.val := fun e => h (Fin.ext e.symm)
  simp [State.getV, this]

theorem State.getV_setV (x r : Reg) (b : Byte) : (s.setV x b).getV r = if r = x then b else s.getV r := by
  split
  · subst_vars; simp
  · exact State.getV_setV_ne s x r b ‹_›

@[simp] theorem State.getV_loadRegsFrom (a : Nat) (x r : Reg) :
    (s.loadRegsFrom a x).getV r = if r ≤ x then s.readByte (a + r.val) else s.getV r := by
  simp [State.getV]

theorem State.slot_push (w : Word) (k : Nat) (h : s.sp < stackCapacity) :
    (s.push w).slot k = if k = s.sp then w else s.slot k := by
  have hs : s.sp < 32 := h
  by_cases hk : k < 32
  · simp only [State.slot, State.push_stack, Vector.getElem?_setIfInBounds]
    by_cases e : s.sp = k
    · simp [e, hk]
    · simp [e, Ne.symm e]
  · have : k ≠ s.sp := by omega
    simp [State.slot, hk, this]

/-- A vector of registers is the registers. -/
theorem State.v_ext (s t : State) (h : ∀ r, t.getV r = s.getV r) : t.v = s.v := by
  refine Vector.ext fun k hk => ?_
  exact h ⟨k, hk⟩

/-! ## The other updates -/

@[simp] theorem State.getV_setI (w : Word) (r' : Reg) : (s.setI w).getV r' = s.getV r' := by simp [State.getV]
@[simp] theorem State.getV_setPc (w : Word) (r' : Reg) : (s.setPc w).getV r' = s.getV r' := by simp [State.getV]
@[simp] theorem State.getV_setDT (b : Byte) (r' : Reg) : (s.setDT b).getV r' = s.getV r' := by simp [State.getV]
@[simp] theorem State.getV_setST (b : Byte) (r' : Reg) : (s.setST b).getV r' = s.getV r' := by simp [State.getV]
@[simp] theorem State.getV_writeByte (a : Nat) (b : Byte) (r' : Reg) : (s.writeByte a b).getV r' = s.getV r' := by simp [State.getV]
@[simp] theorem State.getV_writeBytes (a : Nat) (bs : List Byte) (r' : Reg) : (s.writeBytes a bs).getV r' = s.getV r' := by simp [State.getV]
@[simp] theorem State.getV_push (w : Word) (r' : Reg) : (s.push w).getV r' = s.getV r' := by simp [State.getV]
@[simp] theorem State.getV_pop (r' : Reg) : (s.pop).getV r' = s.getV r' := by simp [State.getV]
@[simp] theorem State.getV_clearDisplay (r' : Reg) : (s.clearDisplay).getV r' = s.getV r' := by simp [State.getV]
@[simp] theorem State.getV_setLit (lit : List Nat) (r' : Reg) : (s.setLit lit).getV r' = s.getV r' := by simp [State.getV]
@[simp] theorem State.getV_setFatal (r' : Reg) : (s.setFatal).getV r' = s.getV r' := by simp [State.getV]
@[simp] theorem State.getV_tick (r' : Reg) : (s.tick).getV r' = s.getV r' := by simp [State.getV]
@[simp] theorem State.getV_setSurface (bytes : List Byte) (r' : Reg) : (s.setSurface bytes).getV r' = s.getV r' := by simp [State.getV]
@[simp] theorem State.getV_answer (r : Reply) (r' : Reg) : (s.answer r).getV r' = s.getV r' := by simp [State.getV]
@[simp] theorem State.getV_beginStep (inp : Inputs) (r' : Reg) : (s.beginStep inp).getV r' = s.getV r' := by simp [State.getV]
@[simp] theorem State.getV_inMode (m : Mode) (r' : Reg) : (s.inMode m).getV r' = s.getV r' := by simp [State.getV]
@[simp] theorem State.getV_advanceI (k : Nat) (r' : Reg) : (s.advanceI k).getV r' = s.getV r' := by simp [State.getV]

@[simp] theorem State.readByte_setI (w : Word) (b' : Nat) : (s.setI w).readByte b' = s.readByte b' := by
  simp [State.readByte]
@[simp] theorem State.readByte_setPc (w : Word) (b' : Nat) : (s.setPc w).readByte b' = s.readByte b' := by
  simp [State.readByte]
@[simp] theorem State.readByte_setDT (b : Byte) (b' : Nat) : (s.setDT b).readByte b' = s.readByte b' := by
  simp [State.readByte]
@[simp] theorem State.readByte_setST (b : Byte) (b' : Nat) : (s.setST b).readByte b' = s.readByte b' := by
  simp [State.readByte]
@[simp] theorem State.readByte_push (w : Word) (b' : Nat) : (s.push w).readByte b' = s.readByte b' := by
  simp [State.readByte]
@[simp] theorem State.readByte_pop (b' : Nat) : (s.pop).readByte b' = s.readByte b' := by
  simp [State.readByte]
@[simp] theorem State.readByte_clearDisplay (b' : Nat) : (s.clearDisplay).readByte b' = s.readByte b' := by
  simp [State.readByte]
@[simp] theorem State.readByte_setLit (lit : List Nat) (b' : Nat) : (s.setLit lit).readByte b' = s.readByte b' := by
  simp [State.readByte]
@[simp] theorem State.readByte_setFatal (b' : Nat) : (s.setFatal).readByte b' = s.readByte b' := by
  simp [State.readByte]
@[simp] theorem State.readByte_tick (b' : Nat) : (s.tick).readByte b' = s.readByte b' := by
  simp [State.readByte]
@[simp] theorem State.readByte_setSurface (bytes : List Byte) (b' : Nat) : (s.setSurface bytes).readByte b' = s.readByte b' := by
  simp [State.readByte]
@[simp] theorem State.readByte_answer (r : Reply) (b' : Nat) : (s.answer r).readByte b' = s.readByte b' := by
  simp [State.readByte]
@[simp] theorem State.readByte_beginStep (inp : Inputs) (b' : Nat) : (s.beginStep inp).readByte b' = s.readByte b' := by
  simp [State.readByte]
@[simp] theorem State.readByte_inMode (m : Mode) (b' : Nat) : (s.inMode m).readByte b' = s.readByte b' := by
  simp [State.readByte]
@[simp] theorem State.readByte_advanceI (k : Nat) (b' : Nat) : (s.advanceI k).readByte b' = s.readByte b' := by
  simp [State.readByte]
@[simp] theorem State.readByte_setV (x : Reg) (b : Byte) (b' : Nat) : (s.setV x b).readByte b' = s.readByte b' := by
  simp [State.readByte]
@[simp] theorem State.readByte_loadRegsFrom (a : Nat) (x : Reg) (b' : Nat) : (s.loadRegsFrom a x).readByte b' = s.readByte b' := by
  simp [State.readByte]
@[simp] theorem State.readByte_takeKey (x : Reg) (b' : Nat) : (s.takeKey x).readByte b' = s.readByte b' := by
  simp [State.readByte]

@[simp] theorem State.slot_setI (w : Word) (k' : Nat) : (s.setI w).slot k' = s.slot k' := by simp [State.slot]
@[simp] theorem State.slot_setPc (w : Word) (k' : Nat) : (s.setPc w).slot k' = s.slot k' := by simp [State.slot]
@[simp] theorem State.slot_setDT (b : Byte) (k' : Nat) : (s.setDT b).slot k' = s.slot k' := by simp [State.slot]
@[simp] theorem State.slot_setST (b : Byte) (k' : Nat) : (s.setST b).slot k' = s.slot k' := by simp [State.slot]
@[simp] theorem State.slot_writeByte (a : Nat) (b : Byte) (k' : Nat) : (s.writeByte a b).slot k' = s.slot k' := by simp [State.slot]
@[simp] theorem State.slot_writeBytes (a : Nat) (bs : List Byte) (k' : Nat) : (s.writeBytes a bs).slot k' = s.slot k' := by simp [State.slot]
@[simp] theorem State.slot_pop (k' : Nat) : (s.pop).slot k' = s.slot k' := by simp [State.slot]
@[simp] theorem State.slot_clearDisplay (k' : Nat) : (s.clearDisplay).slot k' = s.slot k' := by simp [State.slot]
@[simp] theorem State.slot_setLit (lit : List Nat) (k' : Nat) : (s.setLit lit).slot k' = s.slot k' := by simp [State.slot]
@[simp] theorem State.slot_setFatal (k' : Nat) : (s.setFatal).slot k' = s.slot k' := by simp [State.slot]
@[simp] theorem State.slot_tick (k' : Nat) : (s.tick).slot k' = s.slot k' := by simp [State.slot]
@[simp] theorem State.slot_setSurface (bytes : List Byte) (k' : Nat) : (s.setSurface bytes).slot k' = s.slot k' := by simp [State.slot]
@[simp] theorem State.slot_answer (r : Reply) (k' : Nat) : (s.answer r).slot k' = s.slot k' := by simp [State.slot]
@[simp] theorem State.slot_beginStep (inp : Inputs) (k' : Nat) : (s.beginStep inp).slot k' = s.slot k' := by simp [State.slot]
@[simp] theorem State.slot_inMode (m : Mode) (k' : Nat) : (s.inMode m).slot k' = s.slot k' := by simp [State.slot]
@[simp] theorem State.slot_advanceI (k : Nat) (k' : Nat) : (s.advanceI k).slot k' = s.slot k' := by simp [State.slot]
@[simp] theorem State.slot_setV (x : Reg) (b : Byte) (k' : Nat) : (s.setV x b).slot k' = s.slot k' := by simp [State.slot]
@[simp] theorem State.slot_loadRegsFrom (a : Nat) (x : Reg) (k' : Nat) : (s.loadRegsFrom a x).slot k' = s.slot k' := by simp [State.slot]
@[simp] theorem State.slot_takeKey (x : Reg) (k' : Nat) : (s.takeKey x).slot k' = s.slot k' := by simp [State.slot]

end Sys2Proof.Machine
end

