-- ==== Sys2Proof/Laws/Safety.lean ====
section
/-! SUPPORT. The invariant taken apart, and what keeps it. -/

namespace Sys2Proof.Machine

/-- The parts of the invariant. -/
structure State.Good (s : State) : Prop where
  sp  : s.sp ≤ 32
  mem : s.memOk
  lit : litWf s.cfg s.lit = true
  cfg : s.cfg.wf = true
  surface : s.surface.length = s.cfg.dispLen

theorem State.inv_iff (s : State) : s.inv = true ↔ s.Good := by
  constructor
  · intro h
    simp only [State.inv, Bool.and_eq_true, decide_eq_true_iff] at h
    exact ⟨h.1.1.1.1, h.1.1.1.2, h.1.1.2, h.1.2, h.2⟩
  · rintro ⟨h1, h2, h3, h4, h5⟩
    simp only [State.inv, Bool.and_eq_true, decide_eq_true_iff]
    exact ⟨⟨⟨⟨h1, h2⟩, h3⟩, h4⟩, h5⟩

theorem Config.wf_iff (c : Config) :
    c.wf = true ↔ c.fontBase.toNat + 80 ≤ 0x200 ∧ 1 ≤ c.displayWidth ∧ 1 ≤ c.displayHeight ∧
      4184 + c.dispLen ≤ c.saveCapacity := by
  simp only [Config.wf, Bool.and_eq_true, decide_eq_true_eq, and_assoc]

/-- An update that touches nothing the invariant speaks of keeps it. -/
theorem State.Good.of_same {s t : State} (h : s.Good) (hsp : t.sp ≤ 32) (hm : t.mem = s.mem) (hl : t.lit = s.lit)
    (hc : t.cfg = s.cfg) (hd : t.surface = s.surface) : t.Good where
  sp := hsp
  mem := by simpa only [State.memOk, hm, hc] using h.mem
  lit := by rw [hl, hc]; exact h.lit
  cfg := by rw [hc]; exact h.cfg
  surface := by rw [hd, hc]; exact h.surface

/-- Stores inside memory keep the invariant. -/
theorem State.Good.writeBytes {s : State} (h : s.Good) (a : Nat) (bs : List Byte) (ha : a + bs.length ≤ memSize) :
    (s.writeBytes a bs).Good where
  sp := by simpa using h.sp
  mem := (s.writeBytes_spec h.mem a bs ha).1
  lit := by simpa using h.lit
  cfg := by simpa using h.cfg
  surface := by simpa using h.surface

/-- The bounds check, as arithmetic. -/
theorem rangeInMemory_iff (a k : Nat) : rangeInMemory a k = true ↔ k = 0 ∨ a + k ≤ 4096 := by
  simp only [rangeInMemory, decide_eq_true_eq]

end Sys2Proof.Machine
end

