-- ==== Sys2Proof/Laws/Draw.lean ====
section
/-! SUPPORT. What the queries of one Dxyn do to the framebuffer. -/

namespace Sys2Proof.Machine

theorem flagByte_toNat (b : Bool) : (flagByte b).toNat = if b then 1 else 0 := by cases b <;> rfl

theorem flagByte_one (b : Bool) : flagByte b = 1 ↔ b = true := by cases b <;> decide

/-- The queries are the set bits of the sprite on the display. -/
theorem mem_drawQueries (x y : Reg) (n : Nat) (s : State) (c r : Nat) :
    (c, r) ∈ drawQueries x y n s ↔
      c < s.cfg.displayWidth ∧ r < s.cfg.displayHeight ∧ spriteBit x y n s c r = true := by
  rw [drawQueries, mem_spritePixels]
  simp only [spriteBit, Bool.and_eq_true, decide_eq_true_eq, State.readBytes, List.length_map, List.length_range]
  constructor
  · rintro ⟨h1, h2, h3, h4, h5, h6, h7⟩
    refine ⟨h1, h2, ⟨h3, h4, h5, h6⟩, ?_⟩
    have hr : r - (s.getV y).toNat % s.cfg.displayHeight < n := by omega
    simpa [List.getD, hr] using h7
  · rintro ⟨h1, h2, ⟨h3, h4, h5, h6⟩, h7⟩
    refine ⟨h1, h2, h3, h4, h5, h6, ?_⟩
    have hr : r - (s.getV y).toNat % s.cfg.displayHeight < n := by omega
    simpa [List.getD, hr] using h7

/-- A pixel's number is queried exactly when the pixel is. -/
theorem mem_drawNumbers (x y : Reg) (n : Nat) (s : State) (c r : Nat) (hc : c < s.cfg.displayWidth) :
    pixelNumber s.cfg.displayWidth (c, r) ∈ (drawQueries x y n s).map (pixelNumber s.cfg.displayWidth) ↔
      (c, r) ∈ drawQueries x y n s := by
  constructor
  · intro h
    obtain ⟨⟨c', r'⟩, hp, e⟩ := List.mem_map.1 h
    have he := pixelNumber_inj _ _ _ ((mem_drawQueries ..).1 hp).1 hc e
    exact he ▸ hp
  · exact fun h => List.mem_map_of_mem h

/-- The framebuffer after a Dxyn is in its list form again. -/
theorem litWf_draw (x y : Reg) (n : Nat) (s : State) (h : s.Good) :
    litWf s.cfg (drawPixels s.cfg.displayWidth (drawQueries x y n s) s.lit).1 = true := by
  obtain ⟨h1, h2, -⟩ := drawPixels_spec s.cfg.displayWidth (drawQueries x y n s) s.lit
    ((litWf_iff _ _).1 h.lit).1 (spritePixels_numbers_nodup _ _ _ _ _)
  refine (litWf_iff _ _).2 ⟨h1, fun p hp => ?_⟩
  rw [h2] at hp
  by_cases hl : p ∈ s.lit
  · exact ((litWf_iff _ _).1 h.lit).2 p hl
  · simp only [hl, false_iff, not_not] at hp
    obtain ⟨q, hq, rfl⟩ := List.mem_map.1 hp
    have hm := (mem_spritePixels ..).1 hq
    exact pixelNumber_lt _ _ _ hm.1 hm.2.1

end Sys2Proof.Machine
end

