-- ==== Sys2Proof/Laws/Events.lean ====
section
/-! SUPPORT. What one step does, by its next event, where a driver goes on from, and what Ticks leave alone. -/

namespace Sys2Proof.Machine

/-! ## Answers -/

@[simp] theorem andThen_next (t : State) (f : State → Result) : andThen (.next t) f = f t := rfl
@[simp] theorem andThen_fault (c : Fault) (f : State → Result) : andThen (.fault c) f = .fault c := rfl
@[simp] theorem andThen_refused (c : Refusal) (f : State → Result) : andThen (.refused c) f = .refused c := rfl
@[simp] theorem mapNext_next (f : State → State) (t : State) : mapNext f (.next t) = .next (f t) := rfl
@[simp] theorem mapNext_fault (f : State → State) (c : Fault) : mapNext f (.fault c) = .fault c := rfl
@[simp] theorem mapNext_refused (f : State → State) (c : Refusal) : mapNext f (.refused c) = .refused c := rfl

/-! ## One step -/

variable (s : State) (rest : List Event)

@[simp] theorem State.nextEvent_of_agenda (e : Event) (ha : s.agenda = e :: rest) : s.nextEvent = e := by
  simp [State.nextEvent, ha]

@[simp] theorem State.taken_of_agenda (e : Event) (ha : s.agenda = e :: rest) :
    s.taken = { s with agenda := rest } := by
  simp [State.taken, ha]

/-- Taking the next event off changes only what says which events come. -/
theorem State.taken_eq :
    s.taken = { s with agenda := s.agenda.tail, draws := s.taken.draws, untilTick := s.taken.untilTick } := by
  cases h : s.agenda <;> simp [State.taken, h]

/-- Which state the events are counted in does not matter to the rest of the machine. -/
theorem State.taken_keeps :
    s.taken.v = s.v ∧ s.taken.i = s.i ∧ s.taken.pc = s.pc ∧ s.taken.stack = s.stack ∧ s.taken.sp = s.sp ∧
      s.taken.mode = s.mode ∧ s.taken.timers = s.timers ∧ s.taken.mem = s.mem ∧ s.taken.fatal = s.fatal ∧
      s.taken.lit = s.lit ∧ s.taken.surface = s.surface ∧ s.taken.cfg = s.cfg ∧ s.taken.inputs = s.inputs ∧
      s.taken.reply = s.reply := by
  rw [State.taken_eq]
  exact ⟨rfl, rfl, rfl, rfl, rfl, rfl, rfl, rfl, rfl, rfl, rfl, rfl, rfl, rfl⟩

/-- A step performs the next event, unless FATAL is set and nothing is to come. -/
theorem step_eq (h : s.fatal = false ∨ s.agenda ≠ []) : step s = runEvent s.taken s.nextEvent := by
  unfold step performNext
  rw [if_neg]
  rcases h with h | h <;> simp [h]

/-- With events to come, the step is the first of them. -/
theorem step_event (e : Event) (ha : s.agenda = e :: rest) : step s = runEvent { s with agenda := rest } e := by
  rw [step_eq s (.inr (by simp [ha])), s.nextEvent_of_agenda rest e ha, s.taken_of_agenda rest e ha]

theorem step_stopped (ha : s.agenda = []) (hf : s.fatal = true) : step s = .fault .fatalLatched := by
  simp [step, performNext, ha, hf, fail]

/-- While FATAL is clear an event has its own effect. -/
theorem unlessFatal_of_clear (r : Result) (hf : s.fatal = false) : unlessFatal s r = r := if_neg (by simp [hf])

theorem step_commanded (inp : Inputs) (ha : s.agenda = .step inp :: rest) (hf : s.fatal = false) :
    step s = interpret { s with agenda := rest, inputs := inp, reply := .proceed } := by
  rw [step_event s rest _ ha]
  exact unlessFatal_of_clear _ _ hf

/-- A free run steps until its next Tick. -/
theorem step_free (ha : s.agenda = []) (hf : s.fatal = false) (hu : 0 < s.untilTick) :
    step s = interpret
      { s with
        draws := s.draws + 1, untilTick := s.untilTick - 1, inputs := freeInputs s.draws, reply := .proceed } := by
  have hn : s.untilTick ≠ 0 := by omega
  rw [step_eq s (.inl hf)]
  simp [State.taken, State.nextEvent, ha, hn, runEvent, unlessFatal, hf, runStep, State.beginStep]

theorem step_freeTick (ha : s.agenda = []) (hf : s.fatal = false) (hu : s.untilTick = 0) :
    step s = .next (State.tick { s with draws := s.draws + 1, untilTick := Config.freeGap s.draws }) := by
  rw [step_eq s (.inl hf)]
  simp [State.taken, State.nextEvent, ha, hu, runEvent]

theorem step_tick (ha : s.agenda = .tick :: rest) : step s = .next (State.tick { s with agenda := rest }) :=
  step_event s rest _ ha

theorem step_command (c : Command) (ha : s.agenda = .command c :: rest) (hf : s.fatal = false) :
    step s = .next (runCommand { s with agenda := rest } c) := by
  rw [step_event s rest _ ha]
  exact unlessFatal_of_clear _ _ hf

/-- With FATAL set an event that is no power-on is dropped without effect. -/
theorem step_fatal (e : Event) (ha : s.agenda = e :: rest) (hf : s.fatal = true) (he : e ≠ .powerOn) :
    step s = .next { s with agenda := rest } := by
  rw [step_event s rest _ ha]
  cases e <;> simp_all [runEvent, unlessFatal, State.tick]

/-! ## Going on -/

/-- A driver goes on from the next state. -/
theorem driven_of_next (t : State) (h : step s = .next t) : driven s = t := by
  unfold step at h
  simp only [driven, h]

/-- After a Fail it goes on from where the event is past. -/
theorem driven_of_fault (c : Fault) (h : step s = .fault c) (hc : c ≠ .fatalLatched) : driven s = s.afterFail := by
  unfold step at h
  cases c <;> simp_all [driven]

/-- A stopped machine stays as it is. -/
theorem driven_of_stopped (h : step s = .fault .fatalLatched) : driven s = s := by
  unfold step at h
  simp only [driven, h]

/-! ## The step frame -/

/-- The frame fetches and decodes by PC and memory alone. -/
theorem State.fetchWord_congr (s t : State) (hp : t.pc = s.pc) (hm : t.mem = s.mem) (hc : t.cfg = s.cfg) :
    t.fetchWord = s.fetchWord := by
  simp [State.fetchWord, hp, State.readByte_congr s t hm hc]

theorem interpret_of_decode (i : Instr) (hp : s.pc.toNat ≤ 0x0FFE) (hd : decode s.fetchWord = .ok i) :
    interpret s = exec i s := by
  rw [interpret, if_neg (by omega), hd]

/-! ## Ticks -/

theorem State.tick_of_clear (hf : s.fatal = false) : s.tick = { s with timers := s.timers.tick } :=
  if_neg (by simp [hf])

theorem State.tick_of_fatal (hf : s.fatal = true) : s.tick = s := if_pos hf

theorem State.tick_keep : s.tick = { s with timers := s.tick.timers } := by
  unfold State.tick
  split <;> rfl

theorem ticks_keep (n : Nat) (s : State) : ticks n s = { s with timers := (ticks n s).timers } := by
  induction n generalizing s with
  | zero => rfl
  | succ n ih =>
    rw [ticks, ih]
    simp

@[simp] theorem countDown_toNat (b : Byte) : (countDown b).toNat = b.toNat - 1 := by
  unfold countDown
  split
  · next h => subst h; rfl
  · next h =>
    have hb : 0 < b.toNat := by
      rcases Nat.eq_zero_or_pos b.toNat with h0 | h0
      · exact absurd (BitVec.eq_of_toNat_eq h0) h
      · exact h0
    have := b.isLt
    have h1 : (1 : Byte).toNat = 1 := rfl
    rw [BitVec.toNat_sub, h1]
    omega

end Sys2Proof.Machine
end

