-- ==== Sys2Proof/Laws/PerInstr.lean ====
section
/-! SUPPORT. One fact about every instruction as syntax, one lemma per constructor. -/

namespace Sys2Proof.Laws.EncodedRow

/-- The encoding of a well-formed instruction matches the instruction's own row of the opcode map (30_encoding.md
R95). -/
def Statement (i : Instr) : Prop := i.wellFormed = true → rowApplies (encode i) i.row = true

/-- Masking a word field by field. -/
theorem masked_XNN (f mf x mx : BitVec 4) (nn mn : Byte) :
    (f ++ x ++ nn) &&& (mf ++ mx ++ mn) = (f &&& mf) ++ (x &&& mx) ++ (nn &&& mn) := by
  rw [BitVec.and_append, BitVec.and_append]

/-- Format XNN under a mask of the family nibble. -/
theorem applies_family (f : BitVec 4) (x : Reg) (nn : Byte) :
    rowApplies (formatXNN f x nn) (0xF000#16, f ++ 0#12) = true := by
  have h : formatXNN f x nn &&& 0xF000#16 = f ++ 0#12 := by
    refine (masked_XNN f 0xF#4 (selector x) 0#4 nn 0#8).trans ?_
    rw [BitVec.and_zero, BitVec.and_zero, show f &&& 0xF#4 = f from BitVec.and_allOnes]
    revert f; decide
  exact beq_iff_eq.2 h

/-- Format XNN under a mask of the family nibble and the last byte. -/
theorem applies_last (f : BitVec 4) (x : Reg) (nn : Byte) :
    rowApplies (formatXNN f x nn) (0xF0FF#16, f ++ 0#4 ++ nn) = true := by
  have h : formatXNN f x nn &&& 0xF0FF#16 = f ++ 0#4 ++ nn := by
    refine (masked_XNN f 0xF#4 (selector x) 0#4 nn 0xFF#8).trans ?_
    rw [BitVec.and_zero, show f &&& 0xF#4 = f from BitVec.and_allOnes,
      show nn &&& 0xFF#8 = nn from BitVec.and_allOnes]
  exact beq_iff_eq.2 h

/-- Format XY under a mask of the family nibble and the last nibble. -/
theorem applies_nibble (f : BitVec 4) (x y : Reg) (n : BitVec 4) :
    rowApplies (formatXYN f x y n) (0xF00F#16, f ++ 0#8 ++ n) = true := by
  have h : formatXYN f x y n &&& 0xF00F#16 = f ++ 0#8 ++ n := by
    have e : formatXYN f x y n &&& 0xF00F#16 =
        (f ++ selector x ++ selector y ++ n) &&& (0xF#4 ++ 0#4 ++ 0#4 ++ 0xF#4) := rfl
    rw [e, BitVec.and_append, BitVec.and_append, BitVec.and_append]
    rw [BitVec.and_zero, BitVec.and_zero, show f &&& 0xF#4 = f from BitVec.and_allOnes,
      show n &&& 0xF#4 = n from BitVec.and_allOnes]
    clear e; revert f n; decide
  exact beq_iff_eq.2 h

/-- Format NNN under a mask of the family nibble. -/
theorem applies_nnn (f : BitVec 4) (nnn : Word) :
    rowApplies (formatNNN f nnn) (0xF000#16, f ++ 0#12) = true := by
  have h : formatNNN f nnn &&& 0xF000#16 = f ++ 0#12 := by
    have e : formatNNN f nnn &&& 0xF000#16 = (f ++ nnn.setWidth 12) &&& (0xF#4 ++ 0#12) := rfl
    rw [e, BitVec.and_append, BitVec.and_zero, show f &&& 0xF#4 = f from BitVec.and_allOnes]
  exact beq_iff_eq.2 h

/-- Format XYN under a mask of the family nibble. -/
theorem applies_xyn (f : BitVec 4) (x y : Reg) (n : BitVec 4) :
    rowApplies (formatXYN f x y n) (0xF000#16, f ++ 0#12) = true := by
  have h : formatXYN f x y n &&& 0xF000#16 = f ++ 0#12 := by
    have e : formatXYN f x y n &&& 0xF000#16 =
        (f ++ selector x ++ selector y ++ n) &&& (0xF#4 ++ 0#4 ++ 0#4 ++ 0#4) := rfl
    rw [e, BitVec.and_append, BitVec.and_append, BitVec.and_append]
    rw [BitVec.and_zero, BitVec.and_zero, BitVec.and_zero, show f &&& 0xF#4 = f from BitVec.and_allOnes]
    clear e; revert f; decide
  exact beq_iff_eq.2 h

theorem cls : Statement .cls := fun _ => by decide
theorem ret : Statement .ret := fun _ => by decide
theorem jp (nnn : Word) : Statement (.jp nnn) := fun _ => applies_nnn 0x1#4 nnn
theorem call (nnn : Word) : Statement (.call nnn) := fun _ => applies_nnn 0x2#4 nnn
theorem seImm (x : Reg) (nn : Byte) : Statement (.seImm x nn) := fun _ => applies_family 0x3#4 x nn
theorem sneImm (x : Reg) (nn : Byte) : Statement (.sneImm x nn) := fun _ => applies_family 0x4#4 x nn
theorem seReg (x y : Reg) : Statement (.seReg x y) := fun _ => applies_nibble 0x5#4 x y 0x0#4
theorem ldImm (x : Reg) (nn : Byte) : Statement (.ldImm x nn) := fun _ => applies_family 0x6#4 x nn
theorem addImm (x : Reg) (nn : Byte) : Statement (.addImm x nn) := fun _ => applies_family 0x7#4 x nn
theorem ldReg (x y : Reg) : Statement (.ldReg x y) := fun _ => applies_nibble 0x8#4 x y 0x0#4
theorem orReg (x y : Reg) : Statement (.orReg x y) := fun _ => applies_nibble 0x8#4 x y 0x1#4
theorem andReg (x y : Reg) : Statement (.andReg x y) := fun _ => applies_nibble 0x8#4 x y 0x2#4
theorem xorReg (x y : Reg) : Statement (.xorReg x y) := fun _ => applies_nibble 0x8#4 x y 0x3#4
theorem addReg (x y : Reg) : Statement (.addReg x y) := fun _ => applies_nibble 0x8#4 x y 0x4#4
theorem subReg (x y : Reg) : Statement (.subReg x y) := fun _ => applies_nibble 0x8#4 x y 0x5#4
theorem shr (x y : Reg) : Statement (.shr x y) := fun _ => applies_nibble 0x8#4 x y 0x6#4
theorem subnReg (x y : Reg) : Statement (.subnReg x y) := fun _ => applies_nibble 0x8#4 x y 0x7#4
theorem shl (x y : Reg) : Statement (.shl x y) := fun _ => applies_nibble 0x8#4 x y 0xE#4
theorem sneReg (x y : Reg) : Statement (.sneReg x y) := fun _ => applies_nibble 0x9#4 x y 0x0#4
theorem ldI (nnn : Word) : Statement (.ldI nnn) := fun _ => applies_nnn 0xA#4 nnn
theorem jpOffset (nnn : Word) : Statement (.jpOffset nnn) := fun _ => applies_nnn 0xB#4 nnn
theorem rnd (x : Reg) (nn : Byte) : Statement (.rnd x nn) := fun _ => applies_family 0xC#4 x nn
theorem drw (x y : Reg) (n : Nat) : Statement (.drw x y n) := fun _ => applies_xyn 0xD#4 x y _
theorem skp (x : Reg) : Statement (.skp x) := fun _ => applies_last 0xE#4 x 0x9E#8
theorem sknp (x : Reg) : Statement (.sknp x) := fun _ => applies_last 0xE#4 x 0xA1#8
theorem ldFromDT (x : Reg) : Statement (.ldFromDT x) := fun _ => applies_last 0xF#4 x 0x07#8
theorem waitKey (x : Reg) : Statement (.waitKey x) := fun _ => applies_last 0xF#4 x 0x0A#8
theorem setDT (x : Reg) : Statement (.setDT x) := fun _ => applies_last 0xF#4 x 0x15#8
theorem setST (x : Reg) : Statement (.setST x) := fun _ => applies_last 0xF#4 x 0x18#8
theorem addI (x : Reg) : Statement (.addI x) := fun _ => applies_last 0xF#4 x 0x1E#8
theorem ldFont (x : Reg) : Statement (.ldFont x) := fun _ => applies_last 0xF#4 x 0x29#8
theorem bcd (x : Reg) : Statement (.bcd x) := fun _ => applies_last 0xF#4 x 0x33#8
theorem storeRegs (x : Reg) : Statement (.storeRegs x) := fun _ => applies_last 0xF#4 x 0x55#8
theorem loadRegs (x : Reg) : Statement (.loadRegs x) := fun _ => applies_last 0xF#4 x 0x65#8

end Sys2Proof.Laws.EncodedRow
end

