-- ==== Sys2Proof/Laws/Serializer.lean ====
section
/-! SUPPORT. The save buffer byte by byte (46_host_commands.md R216), the display surface's bytes in it, and what `save` and `restore` do. -/

namespace Sys2Proof.Machine

theorem littleEndian_length (l : List Word) : (l.flatMap littleEndian).length = 2 * l.length := by
  induction l with
  | nil => rfl
  | cons a l ih =>
    simp [List.flatMap_cons, ih, littleEndian]
    omega

theorem littleEndian_getElem (l : List Word) (k : Nat) :
    (l.flatMap littleEndian)[2 * k]? = (l[k]?).map lowByte ∧
      (l.flatMap littleEndian)[2 * k + 1]? = (l[k]?).map highByte := by
  induction l generalizing k with
  | nil => simp
  | cons a l ih =>
    cases k with
    | zero => simp [littleEndian]
    | succ k =>
      have hk := ih k
      simp [List.flatMap_cons, littleEndian] at hk ⊢
      rw [show 2 * (k + 1) = 2 * k + 1 + 1 by omega]
      simpa using hk

theorem State.saveFields_length (s : State) : s.saveFields.length = 88 := by
  simp only [State.saveFields, List.length_append, littleEndian_length, Vector.length_toList]
  simp [littleEndian]

theorem State.saveImage_length (s : State) : s.saveImage.length = 4184 := by
  simp [State.saveImage, State.saveFields_length, State.readBytes, memSize]

/-- Every byte of the machine-state part. -/
theorem State.saveFields_getElem (s : State) :
    s.saveFields[0]? = some (lowByte s.pc) ∧ s.saveFields[1]? = some (highByte s.pc) ∧
    s.saveFields[2]? = some (lowByte s.i) ∧ s.saveFields[3]? = some (highByte s.i) ∧
    (∀ r : Reg, s.saveFields[4 + r.val]? = some (s.getV r)) ∧
    (∀ k, k < 32 → s.saveFields[20 + 2 * k]? = some (lowByte (s.slot k)) ∧
      s.saveFields[20 + (2 * k + 1)]? = some (highByte (s.slot k))) ∧
    s.saveFields[84]? = some (BitVec.ofNat 8 s.sp) ∧ s.saveFields[85]? = some (modeTag s.mode) ∧
    s.saveFields[86]? = some s.timers.dt ∧ s.saveFields[87]? = some s.timers.st := by
  have e : s.saveFields = (littleEndian s.pc ++ littleEndian s.i) ++ (s.v.toList ++
      (s.stack.toList.flatMap littleEndian ++ [BitVec.ofNat 8 s.sp, modeTag s.mode, s.timers.dt, s.timers.st])) := by
    simp [State.saveFields]
  rw [e]
  have hl : (littleEndian s.pc ++ littleEndian s.i).length = 4 := rfl
  have hv : s.v.toList.length = 16 := by simp
  have hf : (s.stack.toList.flatMap littleEndian).length = 64 := by
    rw [littleEndian_length]
    simp
  refine ⟨rfl, rfl, rfl, rfl, fun r => ?_, fun k hk => ?_, ?_, ?_, ?_, ?_⟩
  · rw [List.getElem?_append_right (by omega), hl, Nat.add_sub_cancel_left, List.getElem?_append_left (by simp)]
    simp [State.getV]
  · have hg := littleEndian_getElem s.stack.toList k
    rw [List.getElem?_append_right (by omega), hl, List.getElem?_append_right (by omega), hv,
      List.getElem?_append_left (by omega)]
    rw [List.getElem?_append_right (by omega), hl, List.getElem?_append_right (by omega), hv,
      List.getElem?_append_left (by omega)]
    rw [show 20 + 2 * k - 4 - 16 = 2 * k by omega, show 20 + (2 * k + 1) - 4 - 16 = 2 * k + 1 by omega, hg.1, hg.2]
    simp [State.slot, hk]
  all_goals
    rw [List.getElem?_append_right (by omega), hl, List.getElem?_append_right (by omega), hv,
      List.getElem?_append_right (by omega), hf]
    rfl

/-- The memory image of the buffer. -/
theorem State.saveImage_memory (s : State) (a : Nat) (h : a < 4096) (l : List Byte) :
    (s.saveImage ++ l)[a]? = some (s.readByte a) := by
  rw [List.getElem?_append_left (by rw [State.saveImage_length]; omega), State.saveImage,
    List.getElem?_append_left (by simp [State.readBytes, memSize, h])]
  simp [State.readBytes, memSize, h]

/-- The machine-state part of the buffer. -/
theorem State.saveImage_fields (s : State) (a : Nat) (h : a < 88) (l : List Byte) :
    (s.saveImage ++ l)[4096 + a]? = s.saveFields[a]? := by
  rw [List.getElem?_append_left (by rw [State.saveImage_length]; omega), State.saveImage,
    List.getElem?_append_right (by simp [State.readBytes, memSize])]
  simp [State.readBytes, memSize]

/-! ## The display surface's bytes (R223) -/

@[simp] theorem exactBytes_length (n : Nat) (bytes : List Byte) : (exactBytes n bytes).length = n := by
  simp [exactBytes]

theorem exactBytes_getElem (n k : Nat) (bytes : List Byte) (h : k < n) :
    (exactBytes n bytes)[k]? = some (bufferByte bytes k) := by
  simp [exactBytes, h]

/-- Where there are enough bytes, exactly `n` of them are the first `n`. -/
theorem exactBytes_of_le (n : Nat) (bytes : List Byte) (h : n ≤ bytes.length) : exactBytes n bytes = bytes.take n := by
  refine List.ext_getElem? fun k => ?_
  by_cases hk : k < n
  · rw [exactBytes_getElem n k bytes hk, List.getElem?_take_of_lt hk, bufferByte, List.getD_eq_getElem?_getD,
      List.getElem?_eq_getElem (by omega), Option.getD_some]
  · rw [List.getElem?_eq_none (by simpa using hk), List.getElem?_eq_none (by simp; omega)]

@[simp] theorem exactBytes_exactBytes (n : Nat) (bytes : List Byte) :
    exactBytes n (exactBytes n bytes) = exactBytes n bytes := by
  rw [exactBytes_of_le n (exactBytes n bytes) (by simp), List.take_of_length_le (by simp)]

/-- `persistentFields()` gives the bytes the surface was given. -/
@[simp] theorem State.persistentFields_setSurface (s : State) (bytes : List Byte) :
    (s.setSurface bytes).persistentFields = exactBytes s.cfg.dispLen bytes := by
  simp [State.persistentFields]

/-- The two queries of the display surface are inverse to each other (R220). -/
theorem State.persistentFields_restore (s : State) (bytes : List Byte) :
    (s.restorePersistentFields bytes).persistentFields = exactBytes s.cfg.dispLen bytes := by
  unfold State.restorePersistentFields
  split
  · simp [State.persistentFields, exactBytes, *]
  · simp

/-- Restoring the persistent fields writes nothing of the CORE. -/
theorem State.restorePersistentFields_eq (s : State) (bytes : List Byte) :
    s.restorePersistentFields bytes = { s with
      lit := (s.restorePersistentFields bytes).lit
      surface := (s.restorePersistentFields bytes).surface
      draws := (s.restorePersistentFields bytes).draws } := by
  unfold State.restorePersistentFields
  split <;> rfl

/-- Restoring the persistent fields keeps the invariant. -/
theorem State.Good.restorePersistentFields {s : State} (h : s.Good) (bytes : List Byte) :
    (s.restorePersistentFields bytes).Good := by
  unfold State.restorePersistentFields
  split
  · exact h
  · refine ⟨h.sp, h.mem, (litWf_iff _ _).2 ⟨List.pairwise_lt_range.filter _, fun p hp => ?_⟩, h.cfg, exactBytes_length _ _⟩
    exact List.mem_range.1 (List.mem_filter.1 hp).1

/-! ## `save` and `restore` -/

/-- A `save` in a state that meets the invariant answers the buffer and ends in Continue. -/
theorem step_save (s : State) (rest : List Event) (hc : s.cfg.wf = true) (hf : s.fatal = false)
    (ha : s.agenda = .command .save :: rest) :
    step s = .next { s with agenda := rest, reply := .saved (s.saveImage ++ s.persistentFields) } := by
  have hc := (Config.wf_iff _).1 hc
  rw [step_command s rest _ ha hf]
  exact congrArg Host.Outcome.next (if_pos (show payload s.cfg ≤ s.cfg.saveCapacity by simp only [payload]; omega))

/-- A `restore` of an accepted buffer makes its writes and ends in Continue. -/
theorem step_restore (s : State) (rest : List Event) (buf : List Byte) (hf : s.fatal = false)
    (ha : s.agenda = .command (.restore buf) :: rest) (hb : bufferAccepted s.cfg buf = true) :
    step s = .next ((State.restoreFields { s with agenda := rest } buf).answer .proceed) := by
  rw [step_command s rest _ ha hf]
  exact congrArg Host.Outcome.next (if_pos hb)

/-- What a buffer is accepted for (R218, R219). -/
theorem bufferAccepted_iff (c : Config) (buf : List Byte) :
    bufferAccepted c buf = true ↔ 4184 + c.dispLen ≤ buf.length ∧
      (bufferByte buf 4181 = 0 ∨ bufferByte buf 4181 = 1) ∧ (bufferByte buf 4180).toNat ≤ 32 := by
  simp only [bufferAccepted, payload, Bool.and_eq_true, decide_eq_true_eq, and_assoc]
  exact and_congr_left' ⟨of_decide_eq_true, decide_eq_true⟩

/-- Everything an accepted buffer's writes do (R218). -/
theorem State.restoreFields_spec (r : State) (buf : List Byte) :
    (r.restoreFields buf).mem = Memory.ofBytes (powerOnByte r.cfg) (bufferByte buf) ∧
    (r.restoreFields buf).pc = bufferWord buf 4096 ∧ (r.restoreFields buf).i = bufferWord buf 4098 ∧
    (r.restoreFields buf).v = (Vector.ofFn fun k => bufferByte buf (4100 + k.val)) ∧
    (r.restoreFields buf).stack = (Vector.ofFn fun k => bufferWord buf (4116 + 2 * k.val)) ∧
    (r.restoreFields buf).sp = (bufferByte buf 4180).toNat ∧
    (r.restoreFields buf).mode = (if bufferByte buf 4181 = 0 then .legacy else .extended) ∧
    (r.restoreFields buf).timers = { r.timers with dt := bufferByte buf 4182, st := bufferByte buf 4183 } ∧
    (r.restoreFields buf).fatal = r.fatal ∧ (r.restoreFields buf).cfg = r.cfg ∧
    (r.restoreFields buf).agenda = r.agenda ∧
    (r.restoreFields buf).persistentFields = exactBytes r.cfg.dispLen (buf.drop 4184) := by
  simp [State.restoreFields, State.persistentFields_restore]

/-- A list whose bytes are the first ones of a buffer. -/
theorem eq_take_of_bytes (buf l : List Byte) (n : Nat) (hn : n ≤ buf.length) (hl : l.length = n)
    (h : ∀ k, k < n → l[k]? = some (bufferByte buf k)) : l = buf.take n := by
  rw [← exactBytes_of_le n buf hn]
  refine List.ext_getElem? fun k => ?_
  by_cases hk : k < n
  · rw [h k hk, exactBytes_getElem n k buf hk]
  · rw [List.getElem?_eq_none (by omega), List.getElem?_eq_none (by simpa using hk)]

/-- The offsets of the machine-state part, field by field. -/
theorem saveFields_offsets (j : Nat) (h : j < 88) :
    j = 0 ∨ j = 1 ∨ j = 2 ∨ j = 3 ∨ j = 84 ∨ j = 85 ∨ j = 86 ∨ j = 87 ∨ (∃ q : Reg, j = 4 + q.val) ∨
      (∃ q, q < 32 ∧ j = 20 + 2 * q) ∨ ∃ q, q < 32 ∧ j = 20 + (2 * q + 1) := by
  have hc : j < 4 ∨ 84 ≤ j ∨ (4 ≤ j ∧ j < 20) ∨ (20 ≤ j ∧ j < 84) := by omega
  rcases hc with h1 | h1 | h1 | h1
  · have : j = 0 ∨ j = 1 ∨ j = 2 ∨ j = 3 := by omega
    tauto
  · have : j = 84 ∨ j = 85 ∨ j = 86 ∨ j = 87 := by omega
    tauto
  · iterate 8 refine .inr ?_
    exact .inl ⟨⟨j - 4, by omega⟩, by simp only; omega⟩
  · iterate 9 refine .inr ?_
    rcases Nat.mod_two_eq_zero_or_one j with e | e
    · exact .inl ⟨(j - 20) / 2, by omega, by omega⟩
    · exact .inr ⟨(j - 20) / 2, by omega, by omega⟩

/-- The first 4184 bytes of what `save` returns after an accepted `restore` are the buffer's (R220). -/
theorem State.saveImage_restoreFields (r : State) (buf : List Byte) (hb : bufferAccepted r.cfg buf = true) :
    (r.restoreFields buf).saveImage = buf.take 4184 := by
  obtain ⟨hlen, hm, -⟩ := (bufferAccepted_iff _ _).1 hb
  obtain ⟨rMem, rPc, rI, rV, rStack, rSp, rMode, rTimers, -, rCfg, -, -⟩ := r.restoreFields_spec buf
  obtain ⟨h0, h1, h2, h3, h4, h5, h6, h7, h8, h9⟩ := (r.restoreFields buf).saveFields_getElem
  refine eq_take_of_bytes buf _ 4184 (by omega) (State.saveImage_length _) fun k hk => ?_
  rw [← List.append_nil (State.saveImage _)]
  by_cases hk1 : k < 4096
  · rw [State.saveImage_memory _ k hk1, State.readByte, rMem, rCfg, Memory.read_ofBytes _ _ _ (by exact hk1)]
  · obtain ⟨j, rfl⟩ : ∃ j, k = 4096 + j := ⟨k - 4096, by omega⟩
    rw [State.saveImage_fields _ j (by omega)]
    have hcases := saveFields_offsets j (by omega)
    rcases hcases with rfl | rfl | rfl | rfl | rfl | rfl | rfl | rfl | ⟨q, rfl⟩ | ⟨q, hq, rfl⟩ | ⟨q, hq, rfl⟩
    · rw [h0, rPc, bufferWord, lowByte_wordOfBytes]
    · rw [h1, rPc, bufferWord, highByte_wordOfBytes]
    · rw [h2, rI, bufferWord, lowByte_wordOfBytes]
    · rw [h3, rI, bufferWord, highByte_wordOfBytes]
    · rw [h6, rSp]
      simp
    · rw [h7, rMode]
      rcases hm with hm | hm <;> rw [hm] <;> rfl
    · rw [h8, rTimers]
    · rw [h9, rTimers]
    · rw [h4, State.getV, rV]
      simp only [Vector.getElem_ofFn, Option.some.injEq]
      congr 1
      omega
    · rw [(h5 q hq).1, State.slot, rStack]
      simp only [hq, Vector.getElem?_ofFn, dite_true, Option.getD_some, bufferWord, lowByte_wordOfBytes]
      congr 2
      omega
    · rw [(h5 q hq).2, State.slot, rStack]
      simp only [hq, Vector.getElem?_ofFn, dite_true, Option.getD_some, bufferWord, highByte_wordOfBytes]
      congr 2
      omega

end Sys2Proof.Machine
end

