-- ==== Sys2Proof/Tests/Slice0.lean ====
section
/-! SUPPORT. The model's own tests: ill-formed terms, words written out from the opcode map, one-step vectors of 95_test_vectors.md, and a witness for the hypotheses of every statement. -/

namespace Sys2Proof.Tests

open Sys2Proof.Machine

/-! ## Helpers -/

/-- What a next state holds; false where there is none. -/
def nextHas (r : Result) (f : State → Bool) : Bool :=
  match r with
  | .next t => f t
  | _ => false

/-- Whether an answer is that fault. -/
def faultIs (r : Result) (c : Fault) : Bool :=
  match r with
  | .fault d => d == c
  | _ => false

/-- The default start state of 95_test_vectors.md section 0, MODE Legacy. -/
def base : State := State.reset.setPc 0x200

/-- One step of the word `w` from a state, the environment answering `inp`. -/
def stepWord (w : Nat) (s : State) (inp : Inputs := ⟨0, []⟩) : Result :=
  step (State.withFetchWord { s with agenda := [.step inp] } 16 w)

/-- A state whose next events are the given ones. -/
def withEvents (s : State) (events : List Event) : State := { s with agenda := events }

/-! ## Well-formedness: one ill-formed term per check -/

theorem test_illFormed_jp : (Instr.jp 0x1000).wellFormed = false := by decide
theorem test_illFormed_call : (Instr.call 0xFFFF).wellFormed = false := by decide
theorem test_illFormed_ldI : (Instr.ldI 0x1000).wellFormed = false := by decide
theorem test_illFormed_jpOffset : (Instr.jpOffset 0x8000).wellFormed = false := by decide
theorem test_illFormed_drw : (Instr.drw 0 0 16).wellFormed = false := by decide
theorem test_wellFormed_edges : (Instr.jp 0x0FFF).wellFormed = true ∧ (Instr.drw 15 15 15).wellFormed = true := by decide

/-! ## Decoding: every constructor by a word written out from R95 -/

theorem test_decode_family0 :
    decode 0b0000000011100000#16 = .ok .cls ∧ decode 0b0000000011101110#16 = .ok .ret ∧
    decode 0b0000000011100001#16 = .error .illegalWord := by decide
theorem test_decode_jumps :
    decode 0b0001001000110100#16 = .ok (.jp 0x234) ∧ decode 0b0010111111111110#16 = .ok (.call 0xFFE) ∧
    decode 0b1011000011110000#16 = .ok (.jpOffset 0x0F0) := by decide
theorem test_decode_skips :
    decode 0b0011101101000100#16 = .ok (.seImm 0xB 0x44) ∧ decode 0b0100001101000101#16 = .ok (.sneImm 3 0x45) ∧
    decode 0b0101000100100000#16 = .ok (.seReg 1 2) ∧ decode 0b1001111000010000#16 = .ok (.sneReg 0xE 1) := by decide
theorem test_decode_immediates :
    decode 0b0110101000101011#16 = .ok (.ldImm 0xA 0x2B) ∧ decode 0b0111000000000010#16 = .ok (.addImm 0 2) ∧
    decode 0b1010001100000000#16 = .ok (.ldI 0x300) ∧ decode 0b1100111100001111#16 = .ok (.rnd 0xF 0x0F) := by decide
theorem test_decode_family8 :
    decode 0b1000000100100000#16 = .ok (.ldReg 1 2) ∧ decode 0b1000000100100001#16 = .ok (.orReg 1 2) ∧
    decode 0b1000000100100010#16 = .ok (.andReg 1 2) ∧ decode 0b1000000100100011#16 = .ok (.xorReg 1 2) ∧
    decode 0b1000000100100100#16 = .ok (.addReg 1 2) ∧ decode 0b1000000100100101#16 = .ok (.subReg 1 2) ∧
    decode 0b1000000100100110#16 = .ok (.shr 1 2) ∧ decode 0b1000000100100111#16 = .ok (.subnReg 1 2) ∧
    decode 0b1000000100101110#16 = .ok (.shl 1 2) ∧ decode 0b1000000100101111#16 = .error .illegalWord := by decide
theorem test_decode_drw : decode 0b1101111100011010#16 = .ok (.drw 15 1 10) := by decide
theorem test_decode_familyE :
    decode 0b1110010110011110#16 = .ok (.skp 5) ∧ decode 0b1110010110100001#16 = .ok (.sknp 5) ∧
    decode 0b1110000110011111#16 = .error .illegalWord := by decide
theorem test_decode_familyF :
    decode 0b1111001000000111#16 = .ok (.ldFromDT 2) ∧ decode 0b1111001000001010#16 = .ok (.waitKey 2) ∧
    decode 0b1111001000010101#16 = .ok (.setDT 2) ∧ decode 0b1111001000011000#16 = .ok (.setST 2) ∧
    decode 0b1111001000011110#16 = .ok (.addI 2) ∧ decode 0b1111001000101001#16 = .ok (.ldFont 2) ∧
    decode 0b1111001000110011#16 = .ok (.bcd 2) ∧ decode 0b1111001001010101#16 = .ok (.storeRegs 2) ∧
    decode 0b1111001001100101#16 = .ok (.loadRegs 2) ∧ decode 0b1111000101110101#16 = .error .illegalWord := by decide
theorem test_decodeBytes_order : decodeBytes [0x12, 0x34, 0xAA] = .ok (.jp 0x234, [0xAA]) := by decide
theorem test_decodeBytes_short : decodeBytes [0x12] = .error .truncated := by decide
theorem test_decodeTableWord : decodeTableWord 16 0xF265 = some (.loadRegs 2) ∧ decodeTableWord 16 0 = none := by decide

/-! ## One step, expected values from 95_test_vectors.md -/

/-- DS1. -/
theorem test_cls :
    nextHas (stepWord 0x00E0 (base.setLit [0, 2047])) (fun t => t.lit == [] && t.pc == 0x202) = true := by decide
/-- CF7, with the slot kept. -/
theorem test_ret :
    nextHas (stepWord 0x00EE (base.push 0x206))
      (fun t => t.pc == 0x206 && t.sp == 0 && t.slot 0 == 0x206) = true := by decide
/-- CF8. -/
theorem test_ret_underflow :
    nextHas (stepWord 0x00EE base) (fun t => t.fatal && t.pc == 0x200 && t.reply == .none) = true := by decide
/-- CF1. -/
theorem test_jp : nextHas (stepWord 0x1ABC base) (fun t => t.pc == 0xABC) = true := by decide
/-- CF4. -/
theorem test_call :
    nextHas (stepWord 0x2300 base) (fun t => t.pc == 0x300 && t.sp == 1 && t.slot 0 == 0x202) = true := by decide
/-- CF6. -/
theorem test_call_overflow :
    nextHas (stepWord 0x2300 { base with sp := 32 })
      (fun t => t.fatal && t.pc == 0x200 && t.sp == 32 && t.slot 31 == 0) = true := by decide
/-- CF10, CF11. -/
theorem test_seImm :
    nextHas (stepWord 0x3344 (base.setV 3 0x44)) (fun t => t.pc == 0x204) = true ∧
    nextHas (stepWord 0x3345 (base.setV 3 0x44)) (fun t => t.pc == 0x202) = true := by decide
/-- CF12, CF13. -/
theorem test_sneImm :
    nextHas (stepWord 0x4344 (base.setV 3 0x44)) (fun t => t.pc == 0x202) = true ∧
    nextHas (stepWord 0x4345 (base.setV 3 0x44)) (fun t => t.pc == 0x204) = true := by decide
/-- CF14. -/
theorem test_seReg :
    nextHas (stepWord 0x5120 ((base.setV 1 7).setV 2 7)) (fun t => t.pc == 0x204) = true := by decide
/-- CF17. -/
theorem test_sneReg :
    nextHas (stepWord 0x9120 ((base.setV 1 7).setV 2 8)) (fun t => t.pc == 0x204) = true := by decide
/-- CF20a, CF20b. -/
theorem test_jpOffset :
    nextHas (stepWord 0xB3F0 ((base.setV 0 4).setV 3 8)) (fun t => t.pc == 0x3F4) = true ∧
    nextHas (stepWord 0xB3F0 (((base.setV 0 4).setV 3 8).inMode .extended)) (fun t => t.pc == 0x3F8) = true := by decide
/-- CF22a: no 12-bit mask. -/
theorem test_jpOffset_carries :
    nextHas (stepWord 0xBFFF ((base.setV 0 0xFF).setV 15 1)) (fun t => t.pc == 0x10FE) = true := by decide
/-- AL1. -/
theorem test_ldImm : nextHas (stepWord 0x6A2B base) (fun t => t.getV 10 == 0x2B && t.pc == 0x202) = true := by decide
/-- AL4: no flag. -/
theorem test_addImm :
    nextHas (stepWord 0x7002 ((base.setV 0 0xFF).setV 15 1)) (fun t => t.getV 0 == 1 && t.getV 15 == 1) = true := by
  decide
/-- AL7. -/
theorem test_ldReg : nextHas (stepWord 0x8120 (base.setV 2 0x7E)) (fun t => t.getV 1 == 0x7E) = true := by decide
/-- AL8: VF untouched. -/
theorem test_orReg :
    nextHas (stepWord 0x8011 (((base.setV 0 0xF0).setV 1 0x0F).setV 15 1))
      (fun t => t.getV 0 == 0xFF && t.getV 15 == 1) = true := by decide
/-- AL9. -/
theorem test_andReg :
    nextHas (stepWord 0x8012 (((base.setV 0 0xF0).setV 1 0x3C).setV 15 1))
      (fun t => t.getV 0 == 0x30 && t.getV 15 == 1) = true := by decide
/-- AL10. -/
theorem test_xorReg :
    nextHas (stepWord 0x8013 (((base.setV 0 0xF0).setV 1 0x3C).setV 15 1))
      (fun t => t.getV 0 == 0xCC && t.getV 15 == 1) = true := by decide
/-- AL12. -/
theorem test_addReg :
    nextHas (stepWord 0x8014 ((base.setV 0 0xFF).setV 1 2)) (fun t => t.getV 0 == 1 && t.getV 15 == 1) = true := by
  decide
/-- AL17: x = F, the flag wins over the sum. -/
theorem test_addReg_vf :
    nextHas (stepWord 0x8F14 ((base.setV 1 2).setV 15 1)) (fun t => t.getV 15 == 0) = true := by decide
/-- AL19, and AL21 for equal operands. -/
theorem test_subReg :
    nextHas (stepWord 0x8015 (((base.setV 0 1).setV 1 2).setV 15 1))
      (fun t => t.getV 0 == 0xFF && t.getV 15 == 0) = true ∧
    nextHas (stepWord 0x8015 ((base.setV 0 5).setV 1 5)) (fun t => t.getV 0 == 0 && t.getV 15 == 1) = true := by decide
/-- AL26. -/
theorem test_subnReg :
    nextHas (stepWord 0x8017 (((base.setV 0 0xFF).setV 1 2).setV 15 1))
      (fun t => t.getV 0 == 3 && t.getV 15 == 0) = true := by decide
/-- AL30a, AL30b. -/
theorem test_shr :
    nextHas (stepWord 0x8016 ((base.setV 0 0xB6).setV 1 1)) (fun t => t.getV 0 == 0 && t.getV 15 == 1) = true ∧
    nextHas (stepWord 0x8016 (((base.setV 0 0xB6).setV 1 1).inMode .extended))
      (fun t => t.getV 0 == 0x5B && t.getV 15 == 0) = true := by decide
/-- AL35a, AL35b. -/
theorem test_shl :
    nextHas (stepWord 0x801E ((base.setV 0 0xB6).setV 1 1)) (fun t => t.getV 0 == 2 && t.getV 15 == 0) = true ∧
    nextHas (stepWord 0x801E (((base.setV 0 0xB6).setV 1 1).inMode .extended))
      (fun t => t.getV 0 == 0x6C && t.getV 15 == 1) = true := by decide
/-- IX2. -/
theorem test_ldI : nextHas (stepWord 0xAFFF (base.setI 0x1234)) (fun t => t.i == 0xFFF) = true := by decide
/-- IX4 and IX3: the boundary of the range flag. -/
theorem test_addI :
    nextHas (stepWord 0xF01E ((base.setV 0 1).setI 0xFFF)) (fun t => t.i == 0x1000 && t.getV 15 == 1) = true ∧
    nextHas (stepWord 0xF01E (((base.setV 0 1).setI 0xFFE).setV 15 1))
      (fun t => t.i == 0xFFF && t.getV 15 == 0) = true := by decide
/-- IX5: the 16-bit carry. -/
theorem test_addI_carry :
    nextHas (stepWord 0xF01E ((base.setV 0 1).setI 0xFFFF)) (fun t => t.i == 0 && t.getV 15 == 1) = true := by decide
/-- IX11, with the FONT_BASE of State.reset (log 6). -/
theorem test_ldFont : nextHas (stepWord 0xF229 (base.setV 2 0x1A)) (fun t => t.i == 0x050 + 50) = true := by decide
/-- IX13. -/
theorem test_bcd :
    nextHas (stepWord 0xF033 ((base.setV 0 0x89).setI 0x300))
      (fun t => t.readBytes 0x300 3 == [1, 3, 7] && t.i == 0x300) = true := by decide
/-- IX16. -/
theorem test_bcd_bound :
    faultIs (stepWord 0xF033 ((base.setV 0 0xFF).setI 0xFFE)) .memoryBound = true := by decide
/-- IX18a, IX18b. -/
theorem test_storeRegs :
    nextHas (stepWord 0xF155 (((base.setV 0 1).setV 1 3).setI 0x300))
      (fun t => t.readBytes 0x300 3 == [1, 3, 0] && t.i == 0x302) = true ∧
    nextHas (stepWord 0xF155 ((((base.setV 0 1).setV 1 3).setI 0x300).inMode .extended))
      (fun t => t.readBytes 0x300 3 == [1, 3, 0] && t.i == 0x300) = true := by decide
/-- IX26a: it reads its own first byte; VF above x is kept. -/
theorem test_loadRegs :
    nextHas (stepWord 0xF065 ((base.setI 0x200).setV 15 9))
      (fun t => t.getV 0 == 0xF0 && t.i == 0x201 && t.getV 15 == 9) = true := by decide
/-- DS7: a collision. -/
theorem test_drw_collision :
    nextHas (stepWord 0xD011 (((base.setI 0x300).writeByte 0x300 0xC0).setLit [1]))
      (fun t => t.lit == [0] && t.getV 15 == 1 && t.pc == 0x202) = true := by decide
/-- DS3: clipped at the right and at the bottom, the start coordinate wrapped (DS5's rule). -/
theorem test_drw_clips :
    nextHas (stepWord 0xD012 (((((base.setV 0 (62 + 64)).setV 1 31).setI 0x300).writeByte 0x300 0xE0).writeByte 0x301 0xC0))
      (fun t => t.lit == [2046, 2047] && t.getV 15 == 0) = true := by decide
/-- RK1. -/
theorem test_rnd : nextHas (stepWord 0xC00F base ⟨0xA7, []⟩) (fun t => t.getV 0 == 7) = true := by decide
/-- RK8, RK6. -/
theorem test_skp :
    nextHas (stepWord 0xE09E (base.setV 0 0x15) ⟨0, [5]⟩) (fun t => t.pc == 0x204) = true ∧
    nextHas (stepWord 0xE09E (base.setV 0 5)) (fun t => t.pc == 0x202) = true := by decide
/-- RK11, RK10. -/
theorem test_sknp :
    nextHas (stepWord 0xE0A1 (base.setV 0 0xF5) ⟨0, [5]⟩) (fun t => t.pc == 0x202) = true ∧
    nextHas (stepWord 0xE0A1 (base.setV 0 5)) (fun t => t.pc == 0x204) = true := by decide
/-- RK12, RK14. -/
theorem test_waitKey :
    nextHas (stepWord 0xF30A (base.setV 3 0x99)) (fun t => t.pc == 0x200 && t.getV 3 == 0x99) = true ∧
    nextHas (stepWord 0xF30A (base.setV 3 0x99) ⟨0, [9, 3]⟩) (fun t => t.pc == 0x202 && t.getV 3 == 9) = true := by decide
/-- TM1. -/
theorem test_ldFromDT : nextHas (stepWord 0xF107 (base.setDT 0x2A)) (fun t => t.getV 1 == 0x2A) = true := by decide
/-- TM3. -/
theorem test_setDT :
    nextHas (stepWord 0xF115 (base.setV 1 0x3C)) (fun t => t.timers.dt == 0x3C && t.timers.st == 0) = true := by decide
/-- TM4. -/
theorem test_setST :
    nextHas (stepWord 0xF118 (base.setV 1 0x3C)) (fun t => t.timers.st == 0x3C && t.timers.dt == 0) = true := by decide

/-- EX1, EX14, commanded and in a free run. -/
theorem test_faults :
    faultIs (step (withEvents base [.step ⟨0, []⟩])) .decodeFailure = true ∧
    faultIs (step { base with untilTick := 1 }) .decodeFailure = true ∧
    faultIs (step (withEvents (base.setPc 0xFFF) [.step ⟨0, []⟩])) .fetchBound = true := by decide
/-- R250: the driver goes on from a failed step, and the host was told. -/
theorem test_driven :
    (driven (withEvents base [.step ⟨0, []⟩, .tick])).reply = .decodeFailure ∧
    (driven (withEvents base [.step ⟨0, []⟩, .tick])).agenda = [.tick] := by decide
/-- R260: in a free run the Tick comes when it is due. -/
theorem test_free_tick : nextHas (step (base.setDT 3)) (fun t => t.timers.dt == 2 && t.pc == 0x200) = true := by decide
/-- TK10: no Tick while FATAL is set. -/
theorem test_tick_fatal : (base.setDT 3).setFatal.tick.timers.dt = 3 := by decide
/-- R283: power-on does not clear the display. -/
theorem test_powerOn_display :
    nextHas (step (withEvents ((base.setLit [0]).setV 1 7) [.powerOn])) (fun t => t.lit == [0] && t.getV 1 == 0) = true := by
  decide
/-- R223: the display surface gives back exactly the DISP_LEN bytes it was given. -/
theorem test_persistentFields :
    (State.restorePersistentFields { base with cfg := { defaultConfig with dispLen := 2 } } [7, 9, 11]).persistentFields
      = [7, 9] := by decide
/-- TK4's first Tick and TK5: Pause is obeyed before the decrement, Exit ends the Tick. -/
theorem test_tick_signals :
    (Timers.tick { Timers.reset with dt := 3, queue := [.pause] }).dt = 3 ∧
    (Timers.tick { Timers.reset with dt := 3, queue := [.exit] }).dt = 3 ∧
    (Timers.tick { Timers.reset with dt := 3, queue := [.unknown] }).dt = 2 := by decide
/-- HC6. -/
theorem test_loadROM :
    ((base.writeByte 0x203 0xAA).loadROM [0x60, 0xFF, 0x12]).readBytes 0x200 4 = [0x60, 0xFF, 0x12, 0xAA] := by decide
/-- HC2: the font byte comes back, another byte stays. -/
theorem test_initCore :
    ((base.writeByte 0x050 0).writeByte 0x300 0x5A).initCore.readByte 0x050 = 0xF0 ∧
    ((base.writeByte 0x050 0).writeByte 0x300 0x5A).initCore.readByte 0x300 = 0x5A := by decide
/-- The field offsets of R216: PC at 4096, V[0] at 4100, SP, the mode tag, DT and ST at the end. -/
theorem test_saveFields :
    (State.saveFields { base with sp := 1, mode := .extended, v := Vector.replicate 16 0x89 }).take 5
      = [0x00, 0x02, 0x00, 0x00, 0x89] ∧
    (State.saveFields { base with sp := 1, mode := .extended, timers := { Timers.reset with dt := 0x3C, st := 5 } }).drop 84
      = [1, 1, 0x3C, 5] := by decide

/-! ## Witnesses: a concrete state and operands meeting the hypotheses of each statement, one per clause, at the edges -/

theorem witness_DecodeOfEncodeIsIdentity :
    (Instr.drw 15 0 15).wellFormed = true ∧ (Instr.call 0xFFF).wellFormed = true ∧ Instr.cls.wellFormed = true := by
  decide
theorem witness_EncodeOfDecodeIsIdentity : decode 0xDFFF = .ok (.drw 15 15 15) := by decide
theorem witness_DecodeFollowsOpcodeMap :
    decode 0x8FFE = .ok (.shl 15 15) ∧ (0xF00F, 0x800E) ∈ opcodeMap ∧ rowApplies 0x8FFE (0xF00F, 0x800E) = true := by
  decide
theorem witness_IllegalWordsAreTheListedOnes :
    decode 0x0000 = .error .illegalWord ∧ decode 0x5001 = .error .illegalWord ∧ decode 0x800F = .error .illegalWord ∧
    decode 0x9FFF = .error .illegalWord ∧ decode 0xE09F = .error .illegalWord ∧ decode 0xFFFF = .error .illegalWord := by
  decide
theorem witness_AddSetsCarry : (0 : Reg) ≠ vf := by decide
theorem witness_SubtractsSetNotBorrow : (14 : Reg) ≠ vf := by decide
theorem witness_ShiftRightFollowsMode :
    base.mode = .legacy ∧ (base.inMode .extended).mode = .extended ∧ (14 : Reg) ≠ vf := by decide
theorem witness_ShiftLeftFollowsMode :
    base.mode = .legacy ∧ (base.inMode .extended).mode = .extended ∧ (0 : Reg) ≠ vf := by decide
theorem witness_LoadIndexSetsI : decode 0xAFFF = .ok (.ldI 0xFFF) := by decide
theorem witness_FontGlyphAddress : base.cfg.wf = true := by decide
theorem witness_BcdStoresThreeDigits : (base.setI 0xFFD).inv = true ∧ (base.setI 0xFFD).i.toNat + 3 ≤ 4096 := by decide
theorem witness_StoreRegistersAtI :
    (base.setI 0xFF0).inv = true ∧ (base.setI 0xFF0).i.toNat + (15 : Reg).val + 1 ≤ 4096 ∧
    (base.setI 0xFF0).mode = .legacy ∧ ((base.setI 0xFF0).inMode .extended).inv = true ∧
    ((base.setI 0xFF0).inMode .extended).mode = .extended := by decide
theorem witness_LoadRegistersFromI :
    (base.setI 0xFFF).i.toNat + (0 : Reg).val + 1 ≤ 4096 ∧ (0 : Reg) < 1 ∧ (base.setI 0xFFF).mode = .legacy ∧
    ((base.setI 0xFFF).inMode .extended).mode = .extended := by decide
theorem witness_OutOfRangeAccessFaults :
    faultIs (exec (.bcd 0) (base.setI 0xFFE)) .memoryBound = true ∧
    faultIs (exec (.storeRegs 15) (base.setI 0xFF1)) .memoryBound = true ∧
    faultIs (exec (.loadRegs 0) (base.setI 0x1000)) .memoryBound = true ∧
    faultIs (exec (.drw 0 1 2) (base.setI 0xFFF)) .memoryBound = true := by decide
theorem witness_StoredBytesAreFetchedNext :
    base.inv = true ∧ 1 ≤ (1 : Reg).val ∧ ∃ t, exec (.storeRegs 1) base = .next t := ⟨by decide, by decide, _, rfl⟩
theorem witness_DrawTogglesSpritePixels :
    (base.setI 0xFFFF).inv = true ∧ (base.setI 0xFF1).inv = true ∧ (base.setI 0xFF1).i.toNat + 15 ≤ 4096 ∧
    63 < base.cfg.displayWidth ∧ 31 < base.cfg.displayHeight := by decide
theorem witness_DrawingTwiceRestoresDisplay :
    base.inv = true ∧ (0 : Reg) ≠ vf ∧ (1 : Reg) ≠ vf ∧ ∃ t, exec (.drw 0 1 5) base = .next t ∧ t.getV vf = 0 :=
  ⟨by decide, by decide, by decide, _, rfl, by decide⟩
theorem witness_CallPushesReturnAddress : State.sp { base with sp := 31 } < 32 ∧ 30 ≠ State.sp { base with sp := 31 } := by
  decide
theorem witness_ReturnPopsAddress : 0 < State.sp { base with sp := 1 } := by decide
theorem witness_StackExhaustionSetsFatalOnly :
    ((∃ nnn, Instr.call 0x300 = .call nnn) ∧ State.sp { base with sp := 32 } = 32) ∧ Instr.ret = .ret ∧ base.sp = 0 :=
  ⟨⟨⟨_, rfl⟩, rfl⟩, rfl, rfl⟩
theorem witness_CallThenReturnResumesAfterCall :
    State.sp { base with sp := 31 } < 32 ∧
    ∃ t, exec (.call 0x300) { base with sp := 31 } = .next t ∧ ∃ r : State, r.sp = t.sp ∧ r.stack = t.stack :=
  ⟨by decide, _, rfl, _, rfl, rfl⟩
theorem witness_JumpWithOffsetFollowsMode :
    (0xFFF : Word).toNat < 0x1000 ∧ base.mode = .legacy ∧ (base.inMode .extended).mode = .extended ∧
    (15 : Reg).val = (0xFFF : Word).toNat / 256 := by decide
theorem witness_KeySkipsMovePc : (5 : Key).val = ((base.setV 0 0xF5).getV 0).toNat % 16 := by decide
theorem witness_WaitKeyTakesAPressedKey :
    base.inputs.keys = [] ∧ (base.beginStep ⟨0, [9, 3]⟩).inputs.keys ≠ [] := by decide

/-- An instruction that answers a next state, for the statements about every instruction. -/
theorem witness_NoInstructionWritesModeOrEnvironment : ∃ t, exec (.shr 0 1) base = .next t := ⟨_, rfl⟩
theorem witness_ModeMattersToFiveInstructionsOnly : readsMode (.drw 0 1 15) = false := by decide
theorem witness_RegistersChangeOnlyWhereNamed :
    (∃ t, exec (.addReg 0 1) base = .next t) ∧ writesReg (.addReg 0 1) 1 = false ∧
    (writesFlag (.addReg 0 1) = true → (1 : Reg) ≠ vf) := ⟨⟨_, rfl⟩, by decide, by decide⟩
theorem witness_IndexAndStackChangeOnlyWhereNamed :
    (∃ t, exec (.bcd 0) base = .next t) ∧ writesI (.bcd 0) = false ∧
    (∃ t, exec (.storeRegs 0) (base.inMode .extended) = .next t) ∧ readsMode (.storeRegs 0) = true ∧
    (base.inMode .extended).mode = .extended ∧ (∀ nnn, Instr.bcd 0 ≠ .call nnn) ∧ Instr.bcd 0 ≠ .ret :=
  ⟨⟨_, rfl⟩, by decide, ⟨_, rfl⟩, by decide, by decide, fun _ => nofun, nofun⟩
theorem witness_MemoryChangesOnlyWhereStored :
    (base.setI 0xFF0).inv = true ∧ ∃ t, exec (.storeRegs 15) (base.setI 0xFF0) = .next t := ⟨by decide, _, rfl⟩
theorem witness_TimersChangeOnlyWhereNamed :
    ((∃ t, exec (.ldFromDT 0) base = .next t) ∧ (∀ x, Instr.ldFromDT 0 ≠ .setDT x) ∧ ∀ x, Instr.ldFromDT 0 ≠ .setST x) ∧
    (∃ t, exec (.setDT 15) base = .next t) ∧ ∃ t, exec (.setST 15) base = .next t :=
  ⟨⟨⟨_, rfl⟩, fun _ => nofun, fun _ => nofun⟩, ⟨_, rfl⟩, _, rfl⟩
theorem witness_OtherInstructionsAdvancePcByTwo :
    steersPc (.storeRegs 0) = false ∧ ∃ t, exec (.storeRegs 0) base = .next t := ⟨by decide, _, rfl⟩
theorem witness_OnlyStackExhaustionSetsFatal :
    (∃ t, exec .ret base = .next t) ∧ (∃ t, exec (.call 0x300) { base with sp := 32 } = .next t) ∧
    ∃ t, exec (.call 0x300) { base with sp := 31 } = .next t := ⟨⟨_, rfl⟩, ⟨_, rfl⟩, _, rfl⟩
theorem witness_TicksCommuteWithOtherInstructions :
    base.fatal = false ∧ touchesTimers (.call 0x300) = false ∧ State.sp { base with sp := 31 } < 32 ∧
    touchesTimers .ret = false ∧ 0 < State.sp { base with sp := 1 } := by decide

/-- The state `base` with the word 6012 at PC 0x0FFE, the last address a fetch admits. -/
def atLastFetch : State := ((base.setPc 0xFFE).writeByte 0xFFE 0x60).writeByte 0xFFF 0x12

theorem witness_StepRunsDecodedInstruction :
    atLastFetch.fatal = false ∧ atLastFetch.pc.toNat ≤ 0x0FFE ∧ decode atLastFetch.fetchWord = .ok (.ldImm 0 0x12) ∧
    (withEvents atLastFetch [.step ⟨0, []⟩]).agenda = .step ⟨0, []⟩ :: [] ∧ atLastFetch.agenda = [] ∧
    0 < State.untilTick { atLastFetch with untilTick := 1 } ∧ atLastFetch.untilTick = 0 := by decide
theorem witness_FetchBoundThenDecodeFailure :
    (base.setPc 0xFFF).fatal = false ∧
    (withEvents (base.setPc 0xFFF) [.step ⟨0, []⟩]).agenda = .step ⟨0, []⟩ :: [] ∧ (base.setPc 0xFFF).agenda = [] ∧
    0 < State.untilTick { base.setPc 0xFFF with untilTick := 1 } ∧ 0x0FFE < (base.setPc 0xFFF).pc.toNat ∧
    (base.setPc 0xFFE).pc.toNat ≤ 0x0FFE ∧ decode (base.setPc 0xFFE).fetchWord = .error .illegalWord := by decide
theorem witness_FailedStepChangesNothingAndRecurs :
    base.fatal = false ∧ step (withEvents base [.step ⟨7, [3]⟩]) = .fault .decodeFailure ∧
    (withEvents base [.step ⟨7, [3]⟩]).agenda = .step ⟨7, [3]⟩ :: [] ∧
    step { base with untilTick := 1 } = .fault .decodeFailure ∧ State.agenda { base with untilTick := 1 } = [] :=
  ⟨rfl, rfl, rfl, rfl, rfl⟩
theorem witness_FatalStopsEveryAgent :
    Event.powerOn ∉ [Event.tick, .step ⟨0, []⟩, .command .initCore] ∧
    (withEvents base.setFatal [.tick, .step ⟨0, []⟩, .command .initCore]).fatal = true ∧
    (withEvents base.setFatal [.tick, .step ⟨0, []⟩, .command .initCore]).agenda
      = [.tick, .step ⟨0, []⟩, .command .initCore] := by decide
theorem witness_PowerOnValues :
    defaultConfig.wf = true ∧ base.cfg = defaultConfig ∧ (withEvents base.setFatal [.powerOn]).agenda = .powerOn :: [] ∧
    (0xFFF < 0x050 ∨ defaultConfig.fontBase.toNat + 80 ≤ 0xFFF) := by decide
theorem witness_InvariantHoldsAtReset :
    Config.wf { defaultConfig with fontBase := 0x1B0, displayWidth := 1, displayHeight := 1 } = true := by decide
theorem witness_EveryStepKeepsInvariant : (withEvents base [.tick]).inv = true ∧ ∃ t, step (withEvents base [.tick]) = .next t :=
  ⟨by decide, _, rfl⟩
theorem witness_TickFollowsItsRule :
    (withEvents base [.tick]).fatal = false ∧ (withEvents base [.tick]).agenda = .tick :: [] ∧
    Timers.exited { Timers.reset with exited := true } = true ∧
    Timers.queue { Timers.reset with queue := [.exit] } = .exit :: [] ∧
    (Timers.queue { Timers.reset with closed := true } = [] ∧ Timers.closed { Timers.reset with closed := true } = true) ∧
    (Timers.reset.exited = false ∧ (∀ q, Timers.reset.queue ≠ .exit :: q) ∧ Timers.reset.closed = false) :=
  ⟨by decide, rfl, rfl, rfl, ⟨rfl, rfl⟩, rfl, fun _ => nofun, rfl⟩
theorem witness_TimersDecayToZero :
    (base.fatal = false ∧ base.timers.paused = false ∧ base.timers.exited = false ∧ base.timers.closed = false ∧
      base.timers.queue = []) ∧
    State.agenda { base with untilTick := 2 } = [] ∧ (drive 2 { base with untilTick := 2 }).fatal = false := by decide
theorem witness_SignalsTakeOneTickEachAndExitIsFinal :
    (base.fatal = false ∧ Timers.exited { Timers.reset with queue := [.pause, .unknown, .resume] } = false ∧
      Signal.exit ∉ [Signal.pause, .unknown, .resume]) ∧
    Timers.exited { Timers.reset with exited := true } = true ∧ base.setFatal.fatal = true := by decide
theorem witness_SimpleCommandsWriteOneField :
    base.fatal = false ∧
    (withEvents base [.command (.setProgramCounter 0xFFFF)]).agenda = .command (.setProgramCounter 0xFFFF) :: [] ∧
    (withEvents base [.command (.setMode .extended)]).agenda = .command (.setMode .extended) :: [] ∧
    (withEvents base [.command (.signal .pause)]).agenda = .command (.signal .pause) :: [] ∧
    (withEvents base [.command .disconnect]).agenda = .command .disconnect :: [] := by decide
theorem witness_InitializeResetsOnlyItsList :
    (withEvents base [.command .initCore]).inv = true ∧ base.fatal = false ∧
    (withEvents base [.command .initCore]).agenda = .command .initCore :: [] := by decide
theorem witness_LoadRomStoresFromOrigin :
    (withEvents base [.command (.loadROM (List.replicate 3584 0xFF))]).inv = true ∧ base.fatal = false ∧
    (withEvents base [.command (.loadROM [1])]).agenda = .command (.loadROM [1]) :: [] ∧
    (List.replicate 3584 (0xFF : Byte)).length ≤ 3584 ∧ 3584 < (List.replicate 3585 (0xFF : Byte)).length :=
  ⟨rfl, rfl, rfl, Nat.le_of_eq List.length_replicate, Nat.lt_of_lt_of_eq (Nat.lt_succ_self 3584) List.length_replicate.symm⟩
theorem witness_SaveBufferLayout :
    (withEvents base [.command .save]).inv = true ∧ (withEvents base [.command .save]).fatal = false ∧
    (withEvents base [.command .save]).agenda = .command .save :: [] := by decide
theorem witness_MalformedRestoreIsFatal :
    base.fatal = false ∧ (withEvents base [.command (.restore [])]).agenda = .command (.restore []) :: [] ∧
    ([] : List Byte).length < 4184 + base.cfg.dispLen ∧
    (∃ b, (List.replicate 4184 (33 : Byte))[4181]? = some b ∧ b ≠ 0 ∧ b ≠ 1) ∧
    (∃ b, (List.replicate 4184 (33 : Byte))[4180]? = some b ∧ 32 < b.toNat) :=
  ⟨rfl, rfl, by decide, ⟨33, List.getElem?_replicate.trans (if_pos (by decide)), by decide, by decide⟩,
    33, List.getElem?_replicate.trans (if_pos (by decide)), by decide⟩
theorem witness_SaveThenRestoreRoundTrips :
    ((withEvents base [.command .save]).inv = true ∧
      ∃ t b, step (withEvents base [.command .save]) = .next t ∧ t.reply = .saved b ∧
        ∃ r : State, r.cfg = base.cfg ∧ r.fatal = false ∧ r.agenda = .command (.restore b) :: []) ∧
    (base.cfg.wf = true ∧ base.fatal = false ∧
      (withEvents base [.command (.restore (List.replicate 4184 0)), .command .save]).agenda
        = .command (.restore (List.replicate 4184 0)) :: .command .save :: [] ∧
      4184 + base.cfg.dispLen ≤ (List.replicate 4184 (0 : Byte)).length ∧
      (List.replicate 4184 (0 : Byte))[4181]? = some 0 ∧
      ∃ d, (List.replicate 4184 (0 : Byte))[4180]? = some d ∧ d.toNat ≤ 32) :=
  ⟨⟨by decide, _, _, step_save _ [] (by decide) rfl rfl, rfl, withEvents base [.command (.restore _)], rfl, rfl, rfl⟩,
    by decide, rfl, rfl, Nat.le_of_eq List.length_replicate.symm,
    List.getElem?_replicate.trans (if_pos (by decide)), 0, List.getElem?_replicate.trans (if_pos (by decide)), by decide⟩

end Sys2Proof.Tests
end

/-! SUPPORT. What an instruction that completes can do, said once, and what every such effect leaves alone. -/

namespace Sys2Proof.Machine

/-- The next states an instruction can have, by the updates it is made of: the values that matter to no frame are left
open, the guards are kept. -/
inductive Effect (s : State) : Instr → State → Prop
  /-- Fatal entry: a call at capacity, a return from an empty stack (R244, R245). -/
  | fatal {i : Instr} (hi : ((∃ nnn, i = .call nnn) ∧ stackCapacity ≤ s.sp) ∨ (i = .ret ∧ s.sp = 0)) :
      Effect s i s.setFatal
  | call (nnn : Word) (hsp : s.sp < stackCapacity) : Effect s (.call nnn) ((s.push (s.pc + 2)).setPc nnn)
  | ret (hsp : s.sp ≠ 0) : Effect s .ret (s.pop.setPc (s.slot (s.sp - 1)))
  /-- A jump or a skip. -/
  | steer {i : Instr} (w : Word) (hi : steersPc i = true) : Effect s i (s.setPc w)
  /-- A result in the destination register and no flag. -/
  | result {i : Instr} {x : Reg} (b : Byte) (hx : writesReg i x = true) (hf : writesFlag i = false) :
      Effect s i (s.writeResult x b)
  /-- A result in the destination register, then a flag in VF. -/
  | resultFlag {i : Instr} {x : Reg} (b : Byte) (c : Bool) (hx : writesReg i x = true) (hf : writesFlag i = true) :
      Effect s i (s.writeResultFlag x b c)
  | waitKey (x : Reg) : Effect s (.waitKey x) (s.takeKey x)
  | setDT (x : Reg) : Effect s (.setDT x) (s.setDT (s.getV x)).advance
  | setST (x : Reg) : Effect s (.setST x) (s.setST (s.getV x)).advance
  /-- Annn and Fx29. -/
  | index {i : Instr} (w : Word) (hi : writesI i = true) (hm : readsMode i = false) : Effect s i (s.setI w).advance
  | addI (x : Reg) (w : Word) (c : Bool) : Effect s (.addI x) ((s.setI w).setFlag c).advance
  | cls : Effect s .cls s.clearDisplay.advance
  | drw (x y : Reg) (n : Nat) (hr : rangeInMemory s.i.toNat n = true) (c : Bool) :
      Effect s (.drw x y n)
        ((s.setLit (drawPixels s.cfg.displayWidth (drawQueries x y n s) s.lit).1).setFlag c).advance
  | bcd (x : Reg) (hr : rangeInMemory s.i.toNat 3 = true) :
      Effect s (.bcd x) (s.writeBytes s.i.toNat (bcdDigits (s.getV x))).advance
  | storeRegs (x : Reg) (hr : rangeInMemory s.i.toNat (x.val + 1) = true) :
      Effect s (.storeRegs x) ((s.writeBytes s.i.toNat (s.regsUpTo x)).advanceI (x.val + 1)).advance
  | loadRegs (x : Reg) (hr : rangeInMemory s.i.toNat (x.val + 1) = true) :
      Effect s (.loadRegs x) ((s.loadRegsFrom s.i.toNat x).advanceI (x.val + 1)).advance

/-- A guarded answer is a next state only where its guard holds. -/
theorem next_of_guarded {p : Prop} [Decidable p] {u t : State} {c : Fault}
    (h : (if p then .next u else fail c) = Host.Outcome.next t) : p ∧ u = t := by
  split at h
  · exact ⟨‹p›, Host.Outcome.next.inj h⟩
  · cases h

/-- Every instruction that completes has one of the effects. -/
theorem exec_effect {i : Instr} {s t : State} (h : exec i s = .next t) : Effect s i t := by
  cases i with
  | call nnn =>
    have h : execCall nnn s = .next t := h
    unfold execCall at h
    split at h
    · obtain rfl := Host.Outcome.next.inj h
      exact .call nnn ‹_›
    · obtain rfl := Host.Outcome.next.inj h
      exact .fatal (.inl ⟨⟨nnn, rfl⟩, Nat.le_of_not_lt ‹_›⟩)
  | ret =>
    have h : execRet s = .next t := h
    unfold execRet at h
    split at h
    · obtain rfl := Host.Outcome.next.inj h
      exact .fatal (.inr ⟨rfl, ‹_›⟩)
    · obtain rfl := Host.Outcome.next.inj h
      exact .ret ‹_›
  | jp | jpOffset | seImm | sneImm | seReg | sneReg | skp | sknp =>
    obtain rfl := Host.Outcome.next.inj h
    exact .steer _ rfl
  | ldImm x | addImm x | ldReg x | orReg x | andReg x | xorReg x | rnd x | ldFromDT x =>
    obtain rfl := Host.Outcome.next.inj h
    exact .result (x := x) _ (beq_self_eq_true x) rfl
  | addReg x | subReg x | subnReg x | shr x | shl x =>
    obtain rfl := Host.Outcome.next.inj h
    exact .resultFlag (x := x) _ _ (beq_self_eq_true x) rfl
  | waitKey x => exact Host.Outcome.next.inj h ▸ .waitKey x
  | setDT x => exact Host.Outcome.next.inj h ▸ .setDT x
  | setST x => exact Host.Outcome.next.inj h ▸ .setST x
  | ldI | ldFont =>
    obtain rfl := Host.Outcome.next.inj h
    exact .index _ rfl rfl
  | addI x => exact Host.Outcome.next.inj h ▸ .addI x _ _
  | cls => exact Host.Outcome.next.inj h ▸ .cls
  | drw x y n =>
    obtain ⟨hr, rfl⟩ := next_of_guarded h
    exact .drw x y n hr _
  | bcd x =>
    obtain ⟨hr, rfl⟩ := next_of_guarded h
    exact .bcd x hr
  | storeRegs x =>
    obtain ⟨hr, rfl⟩ := next_of_guarded h
    exact .storeRegs x hr
  | loadRegs x =>
    obtain ⟨hr, rfl⟩ := next_of_guarded h
    exact .loadRegs x hr

/-- No effect reaches MODE, the parameters, the model's inputs or the display's own fields: the updates that make it up
leave each of them alone. -/
theorem Effect.keeps_environment {i : Instr} {s t : State} (h : Effect s i t) :
    t.mode = s.mode ∧ t.cfg = s.cfg ∧ t.inputs = s.inputs ∧ t.agenda = s.agenda ∧ t.draws = s.draws ∧
      t.untilTick = s.untilTick ∧ t.surface = s.surface := by
  cases h <;> simp

/-- A register the effect's instruction does not name keeps its value. -/
theorem Effect.keeps_reg {i : Instr} {s t : State} {r : Reg} (h : Effect s i t) (hr : writesReg i r = false)
    (hvf : writesFlag i = true → r ≠ vf) : t.getV r = s.getV r := by
  have hne {x : Reg} (hx : writesReg i x = true) : r ≠ x := by
    rintro rfl
    simp [hr] at hx
  cases h with
  | result b hx => simp [State.getV_setV_ne, hne hx]
  | resultFlag b c hx hf => simp [State.getV_setV_ne, hne hx, hvf hf]
  | addI => simp [State.getV_setV_ne, hvf rfl]
  | drw => simp [State.getV_setV_ne, hvf rfl]
  | waitKey x =>
    have : r ≠ x := hne (beq_self_eq_true x)
    unfold State.takeKey
    split <;> simp [State.getV_setV_ne, this]
  | loadRegs x =>
    have : ¬ r ≤ x := of_decide_eq_false hr
    simp [this]
  | fatal | call | ret | steer | setDT | setST | index | cls | bcd | storeRegs => simp

@[simp] theorem bcdDigits_length (b : Byte) : (bcdDigits b).length = 3 := rfl

@[simp] theorem State.regsUpTo_length (s : State) (x : Reg) : (s.regsUpTo x).length = x.val + 1 := by
  have := x.isLt
  simp only [State.regsUpTo, List.length_take, Vector.length_toList]
  omega

/-- An update that leaves all the fields the invariant speaks of, as the field lemmas say. -/
theorem State.Good.of_unchanged {s t : State} (h : s.Good) (hsp : t.sp = s.sp := by simp)
    (hm : t.mem = s.mem := by simp) (hl : t.lit = s.lit := by simp) (hc : t.cfg = s.cfg := by simp)
    (hd : t.surface = s.surface := by simp) : t.Good :=
  h.of_same (hsp ▸ h.sp) hm hl hc hd

/-- Bytes stored after a passed bounds check lie inside memory, and keep the invariant. -/
theorem State.Good.writeBytes_inRange {s : State} (h : s.Good) {a : Nat} {bs : List Byte}
    (hr : rangeInMemory a bs.length = true) : (s.writeBytes a bs).Good := by
  rcases (rangeInMemory_iff _ _).1 hr with h0 | hle
  · rw [List.length_eq_zero_iff.1 h0]
    exact h
  · exact h.writeBytes a bs hle

/-- Every effect keeps the invariant. -/
theorem Effect.good {i : Instr} {s t : State} (h : Effect s i t) (hs : s.Good) : t.Good := by
  cases h with
  | call nnn hsp => exact hs.of_same hsp rfl rfl rfl rfl
  | ret hsp => exact hs.of_same ((Nat.sub_le _ _).trans hs.sp) rfl rfl rfl rfl
  | cls => exact ⟨hs.sp, hs.mem, rfl, hs.cfg, hs.surface⟩
  | drw x y n => exact ⟨hs.sp, hs.mem, litWf_draw x y n s hs, hs.cfg, hs.surface⟩
  | bcd x hr =>
    have hstored := hs.writeBytes_inRange (bs := bcdDigits (s.getV x)) hr
    exact hstored.of_unchanged
  | storeRegs x hr =>
    have hstored := hs.writeBytes_inRange (bs := s.regsUpTo x) (by simpa using hr)
    exact hstored.of_unchanged
  | fatal | steer | result | resultFlag | waitKey | setDT | setST | index | addI | loadRegs =>
    exact hs.of_unchanged

end Sys2Proof.Machine

/-! SUPPORT. Every event keeps the invariant: instructions by their effects, commands by what each writes. -/

namespace Sys2Proof.Machine

/-! ## The step frame -/

/-- A step that completes is the effect of some instruction. -/
theorem interpret_effect {s t : State} (h : interpret s = .next t) : ∃ i, Effect s i t := by
  unfold interpret at h
  split at h
  · cases h
  · split at h
    · exact ⟨_, exec_effect h⟩
    · cases h

/-! ## Power-on -/

/-- A powered-on machine meets the invariant: the display surface holds DISP_LEN bytes and all else is empty. -/
theorem State.powerOn_good {c : Config} (hc : c.wf = true) : (State.powerOn c).Good where
  sp := Nat.zero_le _
  mem := Memory.wf_nil _
  lit := rfl
  cfg := hc
  surface := List.length_replicate

theorem State.Good.powerCycle {s : State} (h : s.Good) : s.powerCycle.Good :=
  ⟨Nat.zero_le _, Memory.wf_nil _, h.lit, h.cfg, h.surface⟩

/-! ## The host's commands -/

theorem State.Good.answer {s : State} (h : s.Good) (r : Reply) : (s.answer r).Good := h.of_unchanged

theorem State.Good.setFatal {s : State} (h : s.Good) : s.setFatal.Good := h.of_unchanged

/-- The fields `initCore` zeroes (R33). -/
def State.zeroed (s : State) : State :=
  { s with v := Vector.replicate 16 0, i := 0, pc := 0, sp := 0, stack := Vector.replicate 32 0 }

theorem State.initCore_eq (s : State) :
    s.initCore = s.zeroed.writeBytes s.cfg.fontBase.toNat s.cfg.fontTable.toList := rfl

theorem State.Good.zeroed {s : State} (h : s.Good) : s.zeroed.Good :=
  h.of_same (t := s.zeroed) (Nat.zero_le 32) rfl rfl rfl rfl

/-- The font region lies inside memory: it ends below the program origin (R7). -/
theorem State.Good.font_fits {s : State} (h : s.Good) :
    s.cfg.fontBase.toNat + s.cfg.fontTable.toList.length ≤ memSize := by
  obtain ⟨hfont, -⟩ := (Config.wf_iff _).1 h.cfg
  rw [Vector.length_toList]
  exact hfont.trans (by decide)

theorem State.Good.initCore {s : State} (h : s.Good) : s.initCore.Good :=
  h.zeroed.writeBytes _ _ h.font_fits

/-- A ROM that is taken at all fits between the program origin and the end of memory. -/
theorem State.Good.loadROM {s : State} (h : s.Good) (bytes : List Byte) : (s.loadROM bytes).Good := by
  unfold State.loadROM
  split
  · exact (h.writeBytes _ _ (Nat.add_le_of_le_sub' (by decide) ‹_›)).answer _
  · exact h.answer _

theorem State.Good.sendSignal {s : State} (h : s.Good) (sig : Signal) : (s.sendSignal sig).Good :=
  h.of_unchanged

theorem State.Good.save {s : State} (h : s.Good) : s.save.Good := by
  unfold State.save
  split
  · exact h.answer _
  · exact h.setFatal

/-- The depth check of `restore` bounds SP, and the memory it writes is canonical whatever the buffer holds. -/
theorem State.Good.restoreCore {s : State} (h : s.Good) (buf : List Byte)
    (hdepth : (bufferByte buf 4180).toNat ≤ 32) : (s.restoreCore buf).Good where
  sp := by rwa [State.restoreCore_sp]
  mem := by
    rw [State.memOk, State.restoreCore_mem, State.restoreCore_cfg]
    exact Memory.wf_ofBytes _ _
  lit := by rw [State.restoreCore_cfg, State.restoreCore_lit]; exact h.lit
  cfg := by rw [State.restoreCore_cfg]; exact h.cfg
  surface := by rw [State.restoreCore_cfg, State.restoreCore_surface]; exact h.surface

theorem State.Good.restore {s : State} (h : s.Good) (buf : List Byte) : (s.restore buf).Good := by
  unfold State.restore
  split
  · obtain ⟨-, -, hdepth⟩ := (bufferAccepted_iff _ _).1 ‹_›
    exact ((h.restoreCore buf hdepth).restorePersistentFields _).answer _
  · exact h.setFatal

theorem runCommand_good {s : State} (h : s.Good) (c : Command) : (runCommand s c).Good := by
  cases c with
  | initCore => exact h.initCore.answer _
  | loadROM bytes => exact h.loadROM bytes
  | save => exact h.save
  | restore buf => exact h.restore buf
  | signal sig => exact (h.sendSignal sig).answer _
  | setProgramCounter | setMode | disconnect => exact State.Good.answer h.of_unchanged _

/-! ## Events -/

/-- An event either finds FATAL set and leaves the state as it was, or has its own effect. -/
theorem unlessFatal_next {s t : State} {r : Result} (h : unlessFatal s r = .next t) : t = s ∨ r = .next t := by
  unfold unlessFatal at h
  split at h
  · exact .inl (Host.Outcome.next.inj h).symm
  · exact .inr h

theorem runEvent_good {s t : State} (hs : s.Good) (e : Event) (h : runEvent s e = .next t) : t.Good := by
  cases e with
  | step inp =>
    obtain rfl | h := unlessFatal_next h
    · exact hs
    · obtain ⟨i, hi⟩ := interpret_effect h
      exact hi.good hs.of_unchanged
  | tick =>
    obtain rfl := Host.Outcome.next.inj h
    exact hs.of_unchanged
  | command c =>
    obtain rfl | h := unlessFatal_next h
    · exact hs
    · obtain rfl := Host.Outcome.next.inj h
      exact runCommand_good hs c
  | powerOn =>
    obtain rfl := Host.Outcome.next.inj h
    exact hs.powerCycle
  | surface bytes =>
    obtain rfl | h := unlessFatal_next h
    · exact hs
    · obtain rfl := Host.Outcome.next.inj h
      exact ⟨hs.sp, hs.mem, hs.lit, hs.cfg, exactBytes_length _ _⟩

theorem State.Good.taken {s : State} (h : s.Good) : s.taken.Good := by
  rw [State.taken_eq]
  exact h.of_unchanged

/-- A step that completes has performed the next event. -/
theorem runEvent_of_step {s t : State} (h : step s = .next t) : runEvent s.taken s.nextEvent = .next t := by
  unfold step performNext at h
  split at h
  · cases h
  · exact h

theorem step_good {s t : State} (hs : s.Good) (h : step s = .next t) : t.Good :=
  runEvent_good hs.taken s.nextEvent (runEvent_of_step h)

end Sys2Proof.Machine

/-! SUPPORT. The statements about the state: its invariant, its reset, and who writes it (10_state.md). -/

namespace Sys2Proof.Machine

/-! ## The state while FATAL is set -/

/-- A dead machine drops its events one by one, and then stops. -/
theorem runFor_fatal (events : List Event) (s : State) (hp : Event.powerOn ∉ events) (hf : s.fatal = true)
    (ha : s.agenda = events) : runFor events.length s = .next { s with agenda := [] } := by
  induction events generalizing s with
  | nil => exact congrArg Host.Outcome.next (by rw [← ha])
  | cons e events ih =>
    obtain ⟨he, hp⟩ := List.ne_and_not_mem_of_not_mem_cons hp
    rw [List.length_cons, runFor, step_fatal s events e ha hf (Ne.symm he), andThen_next]
    exact ih { s with agenda := events } hp hf rfl

/-! ## Zeroed registers and stack -/

theorem State.getV_of_zero {s : State} (hv : s.v = Vector.replicate 16 0) (r : Reg) : s.getV r = 0 := by
  simp [State.getV, hv]

/-- A slot of a zeroed stack reads 0, and so does one that does not exist. -/
theorem State.slot_of_zero {s : State} (hst : s.stack = Vector.replicate 32 0) (k : Nat) : s.slot k = 0 := by
  rw [State.slot, hst, Vector.getElem?_replicate]
  split <;> rfl

/-! ## Memory at power-on and after `initCore` -/

theorem powerOnByte_font (c : Config) (k : Nat) (h : k < 80) :
    powerOnByte c (c.fontBase.toNat + k) = c.fontTable[k] := by
  simp [powerOnByte, h]

theorem powerOnByte_memInit (c : Config) (a : Nat) (ha : a < 4096)
    (hout : a < c.fontBase.toNat ∨ c.fontBase.toNat + 80 ≤ a) : powerOnByte c a = c.memInit.getD a 0 := by
  rw [powerOnByte, if_neg (by omega), if_pos ha]

/-- `initCore` stores the font table at FONT_BASE. -/
theorem State.readByte_initCore_font {s : State} (h : s.Good) (k : Nat) (hk : k < 80) :
    s.initCore.readByte (s.cfg.fontBase.toNat + k) = s.cfg.fontTable[k] := by
  rw [State.initCore_eq, (s.zeroed.writeBytes_spec h.zeroed.mem _ _ h.font_fits).2]
  simp [hk]

/-- `initCore` stores nothing outside the font region. -/
theorem State.readByte_initCore_outside {s : State} (h : s.Good) (a : Nat)
    (ha : a < s.cfg.fontBase.toNat ∨ s.cfg.fontBase.toNat + 80 ≤ a) : s.initCore.readByte a = s.readByte a := by
  rw [State.initCore_eq, (s.zeroed.writeBytes_spec h.zeroed.mem _ _ h.font_fits).2, Vector.length_toList,
    if_neg (by omega)]
  rfl

/-! ## The obligations -/

/-- Settles O51: the invariant is kept by each kind of event, a step by the effects of the instructions. -/
theorem everyStepKeepsInvariant : Obligations.EveryStepKeepsInvariant := by
  intro s t hs h
  rw [State.inv_iff] at hs ⊢
  exact step_good hs h

/-- Settles O36, by the effects an instruction can have. -/
theorem noInstructionWritesModeOrEnvironment : Obligations.NoInstructionWritesModeOrEnvironment :=
  fun _ _ _ h => (exec_effect h).keeps_environment

/-- Settles O38, by the effects an instruction can have. -/
theorem registersChangeOnlyWhereNamed : Obligations.RegistersChangeOnlyWhereNamed :=
  fun _ _ _ _ h hr hvf => (exec_effect h).keeps_reg hr hvf

/-- Settles O48, by induction on the events to come. -/
theorem fatalStopsEveryAgent : Obligations.FatalStopsEveryAgent :=
  fun events s hp hf ha => ⟨runFor_fatal events s hp hf ha, step_stopped _ rfl hf⟩

/-- Settles O56: `initCore` zeroes its fields, then stores the font table, and a store leaves every other field. -/
theorem initializeResetsOnlyItsList : Obligations.InitializeResetsOnlyItsList := by
  intro s rest hs hf ha
  have hgood : State.Good { s with agenda := rest } := ((State.inv_iff s).1 hs).of_unchanged
  refine ⟨_, step_command s rest _ ha hf, State.getV_of_zero ?v, ?i, ?pc, ?sp, State.slot_of_zero ?stack,
    State.readByte_initCore_font hgood, State.readByte_initCore_outside hgood, ?others⟩
  all_goals simp [runCommand, State.initCore, hf]

/-- Settles O49: the reset state is read off its definition, and power-on as an event is that state. -/
theorem powerOnValues : Obligations.PowerOnValues := by
  intro c hc
  refine ⟨State.getV_of_zero rfl, rfl, rfl, rfl, State.slot_of_zero rfl, powerOnByte_font c, powerOnByte_memInit c,
    rfl, rfl, rfl, rfl, rfl, rfl, rfl, rfl, ?_⟩
  rintro s rest rfl ha
  exact step_event s rest _ ha

/-- Settles O50: State.reset is a machine after power-on whose parameters are legal. -/
theorem invariantHoldsAtReset : Obligations.InvariantHoldsAtReset := by
  have hpower (c : Config) (hc : c.wf = true) : (State.powerOn c).inv = true :=
    (State.inv_iff _).2 (State.powerOn_good hc)
  exact ⟨hpower, hpower defaultConfig (by decide)⟩

end Sys2Proof.Machine

/-! SUPPORT. The statements about memory: which accesses fault, which bytes a store changes, what a fetch reads back, and
that Ticks leave it all alone (20_memory.md). -/

namespace Sys2Proof.Machine

/-! ## Accesses and the bounds check (R63) -/

/-- How many bytes from I on an instruction reads or stores. -/
def accessedBytes : Instr → Nat
  | .bcd _ => 3
  | .storeRegs x | .loadRegs x => x.val + 1
  | .drw _ _ n => n
  | _ => 0

/-- The bounds check fails on a non-empty range that ends past memory, and on no other. -/
theorem not_rangeInMemory_iff (a k : Nat) : ¬ rangeInMemory a k = true ↔ 0 < k ∧ 4096 < a + k := by
  rw [rangeInMemory_iff]
  omega

/-- A guarded answer is a fault exactly where its guard does not hold. -/
theorem fault_iff_of_guarded {p : Prop} [Decidable p] {u : State} {c d : Fault} :
    (if p then .next u else fail d) = Host.Outcome.fault c ↔ c = d ∧ ¬ p := by
  by_cases hp : p
  · simp [hp]
  · simp [hp, fail, eq_comm]

/-- The bounds check is the only way an instruction faults. -/
theorem exec_fault_iff (i : Instr) (s : State) (c : Fault) :
    exec i s = .fault c ↔ c = .memoryBound ∧ ¬ rangeInMemory s.i.toNat (accessedBytes i) = true := by
  have hempty : ¬ (c = .memoryBound ∧ ¬ rangeInMemory s.i.toNat 0 = true) :=
    fun ⟨_, hr⟩ => hr ((rangeInMemory_iff _ _).2 (.inl rfl))
  cases i with
  | bcd | storeRegs | loadRegs | drw => exact fault_iff_of_guarded
  | call nnn =>
    have hnext (h : execCall nnn s = .fault c) : False := by
      unfold execCall at h
      split at h <;> cases h
    exact iff_of_false hnext hempty
  | ret =>
    have hnext (h : execRet s = .fault c) : False := by
      unfold execRet at h
      split at h <;> cases h
    exact iff_of_false hnext hempty
  | _ => exact iff_of_false nofun hempty

/-! ## What a store leaves in memory (R60, R64, R65) -/

/-- The bytes of memory after a store that passed the bounds check. -/
theorem State.readByte_writeBytes_inRange {s : State} (hs : s.memOk) {a : Nat} {bs : List Byte}
    (hr : rangeInMemory a bs.length = true) (c : Nat) :
    (s.writeBytes a bs).readByte c = if a ≤ c ∧ c < a + bs.length then bs.getD (c - a) 0 else s.readByte c := by
  rcases (rangeInMemory_iff _ _).1 hr with h0 | hle
  · obtain rfl := List.length_eq_zero_iff.1 h0
    rw [if_neg (by simp)]
    rfl
  · exact (s.writeBytes_spec hs a bs hle).2 c

/-- A store that passed the bounds check changes no byte outside its range. -/
theorem State.keepsMemOutside_writeBytes {s : State} (hs : s.memOk) {a : Nat} {bs : List Byte}
    (hr : rangeInMemory a bs.length = true) : KeepsMemOutside a bs.length s (s.writeBytes a bs) := by
  intro b hb
  rw [s.readByte_writeBytes_inRange hs hr, if_neg (by omega)]

/-- Memory after an effect: outside the bytes its instruction stores, as before. -/
theorem Effect.keeps_mem {i : Instr} {s t : State} (h : Effect s i t) (hs : s.memOk) :
    KeepsMemOutside s.i.toNat (storedBytes i) s t := by
  cases h with
  | bcd x hr =>
    intro b hb
    simpa using State.keepsMemOutside_writeBytes (bs := bcdDigits (s.getV x)) hs hr b hb
  | storeRegs x hr =>
    have hlen := s.regsUpTo_length x
    intro b hb
    simpa using State.keepsMemOutside_writeBytes (bs := s.regsUpTo x) hs (hlen ▸ hr) b (hlen ▸ hb)
  | fatal | call | ret | steer | result | resultFlag | waitKey | setDT | setST | index | addI | cls | drw | loadRegs =>
    exact fun b _ => by simp

/-- Byte `k` of those Fx55 stores is register `k`. -/
theorem State.regsUpTo_getD (s : State) {x k : Reg} (hk : k ≤ x) : (s.regsUpTo x).getD k.val 0 = s.getV k := by
  have hlt : k.val < x.val + 1 := Nat.lt_succ_of_le hk
  simp [State.regsUpTo, State.getV, List.getD_eq_getElem?_getD, hlt]

/-- The bytes of memory Fx55 stores are the registers, in their order. -/
theorem readByte_of_storeRegs {x k : Reg} {s t : State} (hs : s.memOk) (h : exec (.storeRegs x) s = .next t)
    (hk : k ≤ x) : t.readByte (s.i.toNat + k.val) = s.getV k := by
  obtain ⟨hr, rfl⟩ := next_of_guarded h
  have hlen := s.regsUpTo_length x
  have hin : s.i.toNat ≤ s.i.toNat + k.val ∧ s.i.toNat + k.val < s.i.toNat + (s.regsUpTo x).length := by
    have : k.val ≤ x.val := hk
    omega
  simp only [State.advance_eq, State.readByte_setPc, State.readByte_advanceI]
  rw [State.readByte_writeBytes_inRange hs (hlen ▸ hr), if_pos hin, Nat.add_sub_cancel_left, s.regsUpTo_getD hk]

/-! ## The timers are apart from what instructions do (R203) -/

/-- The state with another timer pair and engine. -/
def State.withTimers (s : State) (tm : Timers) : State := { s with timers := tm }

@[simp] theorem State.withTimers_inputs (s : State) (tm : Timers) : (s.withTimers tm).inputs = s.inputs := rfl

theorem State.tick_eq_withTimers {s : State} (hf : s.fatal = false) : s.tick = s.withTimers s.timers.tick :=
  s.tick_of_clear hf

theorem State.writeBytes_withTimers (s : State) (tm : Timers) (a : Nat) (bs : List Byte) :
    (s.withTimers tm).writeBytes a bs = (s.writeBytes a bs).withTimers tm := by
  induction bs generalizing s a with
  | nil => rfl
  | cons b bs ih => exact ih (s.writeByte a b) (a + 1)

theorem State.advanceI_withTimers (s : State) (tm : Timers) (k : Nat) :
    (s.withTimers tm).advanceI k = (s.advanceI k).withTimers tm := by
  cases hm : s.mode
  · rw [s.advanceI_of_legacy k hm]
    exact State.advanceI_of_legacy _ k hm
  · rw [s.advanceI_of_extended k hm]
    exact State.advanceI_of_extended _ k hm

theorem State.takeKey_withTimers (s : State) (tm : Timers) (x : Reg) :
    (s.withTimers tm).takeKey x = (s.takeKey x).withTimers tm := by
  unfold State.takeKey
  rw [State.withTimers_inputs]
  cases s.inputs.keys <;> rfl

/-- Two guarded answers differ in the timers alone where their branches do. -/
theorem ite_withTimers {p : Prop} {_ : Decidable p} {tm : Timers} {a a' b b' : Result}
    (ha : a' = mapNext (fun t => t.withTimers tm) a) (hb : b' = mapNext (fun t => t.withTimers tm) b) :
    (if p then a' else b') = mapNext (fun t => t.withTimers tm) (if p then a else b) := by
  split
  · exact ha
  · exact hb

/-- An instruction that does not access the timers neither sees nor touches them: other timers before it are other
timers after it, and all else of its answer is the same. -/
theorem exec_withTimers {i : Instr} (hi : touchesTimers i = false) (s : State) (tm : Timers) :
    exec i (s.withTimers tm) = mapNext (fun t => t.withTimers tm) (exec i s) := by
  cases i with
  | ldFromDT | setDT | setST => cases hi
  | call | ret | drw => exact ite_withTimers rfl rfl
  | bcd x =>
    refine ite_withTimers ?_ rfl
    rw [State.writeBytes_withTimers]
    rfl
  | storeRegs x =>
    refine ite_withTimers ?_ rfl
    rw [State.writeBytes_withTimers, State.advanceI_withTimers]
    rfl
  | loadRegs x =>
    have hadvance := (s.loadRegsFrom s.i.toNat x).advanceI_withTimers tm (x.val + 1)
    exact ite_withTimers (congrArg (fun t : State => Host.Outcome.next t.advance) hadvance) rfl
  | waitKey x => exact congrArg Host.Outcome.next (s.takeKey_withTimers tm x)
  | _ => rfl

/-- The timers after an effect of an instruction that does not access them. -/
theorem Effect.keeps_timers {i : Instr} {s t : State} (h : Effect s i t) (hi : touchesTimers i = false) :
    t.timers = s.timers := by
  cases h with
  | setDT | setST => cases hi
  | _ => simp

/-- An effect sets FATAL only where the stack is exhausted. -/
theorem Effect.keeps_fatal {i : Instr} {s t : State} (h : Effect s i t) (hcall : ∀ nnn, i = .call nnn → s.sp < 32)
    (hret : i = .ret → 0 < s.sp) : t.fatal = s.fatal := by
  cases h with
  | fatal hi =>
    obtain ⟨⟨nnn, hc⟩, hfull⟩ | ⟨hr, hempty⟩ := hi
    · exact absurd (hcall nnn hc) (Nat.not_lt_of_le hfull)
    · exact absurd hempty (hret hr).ne'
  | _ => simp

/-! ## The obligations -/

/-- Settles O18: the bounds check is the only way to fault, and it fails on a non-empty range that ends past memory. -/
theorem outOfRangeAccessFaults : Obligations.OutOfRangeAccessFaults := by
  intro i s c
  rw [exec_fault_iff, not_rangeInMemory_iff]
  refine and_congr_right fun _ => ?_
  cases i with
  | bcd | storeRegs | loadRegs => simp [accessedBytes, Nat.add_assoc]
  | _ => simp [accessedBytes]

/-- Settles O19: a fetch joins the bytes at I and I + 1, which are V[0] and V[1]. -/
theorem storedBytesAreFetchedNext : Obligations.StoredBytesAreFetchedNext := by
  intro x s t hs hx h
  have hmem := ((State.inv_iff s).1 hs).mem
  have hhigh : t.readByte s.i.toNat = s.getV 0 := readByte_of_storeRegs (k := 0) hmem h (Fin.zero_le x)
  have hlow : t.readByte (s.i.toNat + 1) = s.getV 1 := readByte_of_storeRegs (k := 1) hmem h hx
  simp only [State.fetchWord, State.setPc_pc, State.readByte_setPc, hhigh, hlow, toNat_wordOfBytes]

/-- Settles O40, by the effects an instruction can have: two of them store. -/
theorem memoryChangesOnlyWhereStored : Obligations.MemoryChangesOnlyWhereStored :=
  fun _ s _ hs h => (exec_effect h).keeps_mem ((State.inv_iff s).1 hs).mem

/-- Settles O44: a Tick is a change of the timers, which the instruction neither sees nor touches, and FATAL stays
clear, so that the Tick after it does the same. -/
theorem ticksCommuteWithOtherInstructions : Obligations.TicksCommuteWithOtherInstructions := by
  intro i s hf hi hcall hret
  have hfirst : andThen (runEvent s .tick) (exec i) = exec i s.tick := rfl
  rw [hfirst, s.tick_eq_withTimers hf, exec_withTimers hi]
  cases h : exec i s with
  | next t =>
    have heffect := exec_effect h
    have hft : t.fatal = false := (heffect.keeps_fatal hcall hret).trans hf
    have htick : t.tick = t.withTimers s.timers.tick := by
      rw [t.tick_eq_withTimers hft, heffect.keeps_timers hi]
    exact congrArg Host.Outcome.next htick.symm
  | fault | refused => rfl

end Sys2Proof.Machine

/-! SUPPORT. The decoder and the encoder undo each other, the words that decode to nothing are those of R96, decoding
follows the opcode map, and MODE is no part of it (30_encoding.md). -/

namespace Sys2Proof

/-! ## Encoding, then decoding (R91 to R95) -/

/-- Each field of an instruction's format reads back as it was written. -/
theorem decode_encode (i : Instr) (hw : i.wellFormed = true) : decode (encode i) = .ok i := by
  cases i with
  | cls | ret => rfl
  | jp nnn | call nnn | ldI nnn | jpOffset nnn =>
    simp [encode, decode, fields_formatNNN _ nnn (of_decide_eq_true hw)]
  | seImm | sneImm | ldImm | addImm | rnd => simp [encode, decode, fields_formatXNN]
  | seReg | sneReg => simp [encode, decode, fields_formatXYN]
  | ldReg | orReg | andReg | xorReg | addReg | subReg | shr | subnReg | shl =>
    simp [encode, decode, decodeAlu, fields_formatXYN]
  | drw x y n =>
    have hn : n < 16 := of_decide_eq_true hw
    simp [encode, decode, fields_formatXYN, hn]
  | skp | sknp => simp [encode, decode, decodeKey, fields_formatXNN]
  | ldFromDT | waitKey | setDT | setST | addI | ldFont | bcd | storeRegs | loadRegs =>
    simp [encode, decode, decodeMisc, fields_formatXNN]

/-- Settles O2, constructor by constructor: the fields of the instruction's format. -/
theorem decodeOfEncodeIsIdentity : Obligations.DecodeOfEncodeIsIdentity := decode_encode

/-! ## Decoding, then encoding (R94, R95) -/

/-- The instruction has an encoding, and the word is it. -/
def Encodes (i : Instr) (op : Word) : Prop := i.wellFormed = true ∧ encode i = op

theorem encodes_of_decodeSystem {op : Word} {i : Instr} (h : decodeSystem op = .ok i) : Encodes i op := by
  unfold decodeSystem at h
  split at h
  next hop => cases h; exact ⟨rfl, hop.symm⟩
  next =>
    split at h <;> cases h
    next hop => exact ⟨rfl, hop.symm⟩

theorem encodes_of_decodeAlu {op : Word} {i : Instr} (hf : fieldF op = 0x8#4) (h : decodeAlu op = .ok i) :
    Encodes i op := by
  simp only [decodeAlu] at h
  split at h <;> cases h
  all_goals exact ⟨rfl, formatXYN_fields op _ _ hf ‹_›⟩

theorem encodes_of_decodeKey {op : Word} {i : Instr} (hf : fieldF op = 0xE#4) (h : decodeKey op = .ok i) :
    Encodes i op := by
  unfold decodeKey at h
  split at h <;> cases h
  all_goals exact ⟨rfl, formatXNN_fields op _ _ hf ‹_›⟩

theorem encodes_of_decodeMisc {op : Word} {i : Instr} (hf : fieldF op = 0xF#4) (h : decodeMisc op = .ok i) :
    Encodes i op := by
  simp only [decodeMisc] at h
  split at h <;> cases h
  all_goals exact ⟨rfl, formatXNN_fields op _ _ hf ‹_›⟩

/-- The operand `nnn` read from a word fits its field. -/
theorem fieldNNN_fits (op : Word) : decide ((fieldNNN op).toNat < 0x1000) = true := by
  rw [toNat_fieldNNN]
  exact decide_eq_true (Nat.mod_lt _ (by decide))

/-- Decoding undone, family by family: the format puts the word's own fields back in their places. -/
theorem encodes_of_decode {op : Word} {i : Instr} (h : decode op = .ok i) : Encodes i op := by
  unfold decode at h
  split at h
  case h_1 => exact encodes_of_decodeSystem h
  case h_2 hf | h_3 hf | h_11 hf | h_12 hf =>
    cases h
    exact ⟨fieldNNN_fits op, formatNNN_fields op _ hf⟩
  case h_4 hf | h_5 hf | h_7 hf | h_8 hf | h_13 hf =>
    cases h
    exact ⟨rfl, formatXNN_fields op _ _ hf rfl⟩
  case h_6 hf | h_10 hf =>
    split at h <;> cases h
    next hn => exact ⟨rfl, formatXYN_fields op _ _ hf hn⟩
  case h_9 hf => exact encodes_of_decodeAlu hf h
  case h_14 hf =>
    cases h
    exact ⟨decide_eq_true (fieldN op).isLt, formatXYN_fields op _ _ hf (by simp)⟩
  case h_15 hf => exact encodes_of_decodeKey hf h
  case h_16 =>
    have hf : fieldF op = 0xF#4 := by simp only [imp_false] at *; bv_omega
    exact encodes_of_decodeMisc hf h

/-- Settles O3, family by family: a decoded instruction's operands are the word's fields. -/
theorem encodeOfDecodeIsIdentity : Obligations.EncodeOfDecodeIsIdentity := fun _ _ h => encodes_of_decode h

/-! ## Illegal words (R96) -/

theorem decodeSystem_illegal_iff (op : Word) :
    decodeSystem op = .error .illegalWord ↔ op.toNat ≠ 0x00E0 ∧ op.toNat ≠ 0x00EE := by
  simp only [decodeSystem, ← BitVec.toNat_inj]
  split
  · simp_all
  · split <;> simp_all

theorem decodeAlu_illegal_iff (op : Word) :
    decodeAlu op = .error .illegalWord ↔ op.toNat % 16 ∈ [8, 9, 0xA, 0xB, 0xC, 0xD, 0xF] := by
  have hlt := (fieldN op).isLt
  rw [← toNat_fieldN]
  simp only [decodeAlu]
  split
  case h_10 =>
    refine iff_of_true rfl ?_
    simp only [imp_false, List.mem_cons, List.not_mem_nil, or_false] at *
    bv_omega
  all_goals simp_all

theorem decodeKey_illegal_iff (op : Word) :
    decodeKey op = .error .illegalWord ↔ op.toNat % 256 ∉ [0x9E, 0xA1] := by
  rw [← toNat_fieldNN]
  unfold decodeKey
  split <;> simp_all [← BitVec.toNat_inj]

theorem decodeMisc_illegal_iff (op : Word) :
    decodeMisc op = .error .illegalWord ↔
      op.toNat % 256 ∉ [0x07, 0x0A, 0x15, 0x18, 0x1E, 0x29, 0x33, 0x55, 0x65] := by
  rw [← toNat_fieldNN]
  simp only [decodeMisc]
  split <;> simp_all [← BitVec.toNat_inj]

/-- The decoder of one word has one reason to refuse. -/
theorem decode_error {op : Word} {e : DecodeReject} (h : decode op = .error e) : e = .illegalWord := by
  simp only [decode, decodeSystem, decodeAlu, decodeKey, decodeMisc] at h
  repeat' split at h
  all_goals cases h
  all_goals rfl

/-- Settles O5, family by family: the family nibble picks one line of the table. -/
theorem illegalWordsAreTheListedOnes : Obligations.IllegalWordsAreTheListedOnes := by
  intro op
  have hF := toNat_fieldF op
  have hN := toNat_fieldN op
  unfold decode
  split
  case h_1 hf => simp [← hF, hf, decodeSystem_illegal_iff]
  case h_6 hf | h_10 hf => simp [← hF, ← hN, hf, ← BitVec.toNat_inj]
  case h_9 hf => simp [← hF, hf, decodeAlu_illegal_iff]
  case h_15 hf => simp [← hF, hf, decodeKey_illegal_iff]
  case h_16 =>
    have hf : fieldF op = 0xF#4 := by simp only [imp_false] at *; bv_omega
    simp [← hF, hf, decodeMisc_illegal_iff]
  case h_2 hf | h_3 hf | h_4 hf | h_5 hf | h_7 hf | h_8 hf | h_11 hf | h_12 hf | h_13 hf | h_14 hf =>
    simp [← hF, hf]

/-! ## The opcode map (R95) -/

/-- Any two rows' matches differ in a bit both masks fix. -/
theorem opcodeMap_separated : opcodeMap.Pairwise fun r q => r.2 &&& q.1 ≠ q.2 &&& r.1 := by decide

theorem opcodeMap_disjoint :
    opcodeMap.Pairwise fun r q => ∀ op : Word, ¬ (rowApplies op r = true ∧ rowApplies op q = true) := by
  refine opcodeMap_separated.imp fun {r q} hne op ⟨hr, hq⟩ => hne ?_
  rw [← beq_iff_eq.1 hr, ← beq_iff_eq.1 hq, BitVec.and_assoc, BitVec.and_assoc, BitVec.and_comm r.1]

/-- At most one row applies to a word. -/
theorem row_unique {op : Word} {r q : Word × Word} (hr : r ∈ opcodeMap) (hq : q ∈ opcodeMap)
    (har : rowApplies op r = true) (haq : rowApplies op q = true) : r = q := by
  have hsymm : Std.Symm fun r q : Word × Word =>
      ∀ op : Word, ¬ (rowApplies op r = true ∧ rowApplies op q = true) :=
    ⟨fun _ _ h op both => h op both.symm⟩
  by_contra hne
  exact opcodeMap_disjoint.forall hr hq hne op ⟨har, haq⟩

theorem Instr.row_mem_opcodeMap (i : Instr) : i.row ∈ opcodeMap := by
  cases i <;> exact List.mem_of_elem_eq_true rfl

open Laws.EncodedRow in
/-- The encoding of every well-formed instruction matches the instruction's own row. -/
theorem rowApplies_encode : ∀ i : Instr, Statement i
  | .cls => cls | .ret => ret | .jp nnn => jp nnn | .call nnn => call nnn
  | .seImm x nn => seImm x nn | .sneImm x nn => sneImm x nn | .seReg x y => seReg x y
  | .ldImm x nn => ldImm x nn | .addImm x nn => addImm x nn | .ldReg x y => ldReg x y
  | .orReg x y => orReg x y | .andReg x y => andReg x y | .xorReg x y => xorReg x y
  | .addReg x y => addReg x y | .subReg x y => subReg x y | .shr x y => shr x y
  | .subnReg x y => subnReg x y | .shl x y => shl x y | .sneReg x y => sneReg x y
  | .ldI nnn => ldI nnn | .jpOffset nnn => jpOffset nnn | .rnd x nn => rnd x nn | .drw x y n => drw x y n
  | .skp x => skp x | .sknp x => sknp x | .ldFromDT x => ldFromDT x | .waitKey x => waitKey x
  | .setDT x => setDT x | .setST x => setST x | .addI x => addI x | .ldFont x => ldFont x
  | .bcd x => bcd x | .storeRegs x => storeRegs x | .loadRegs x => loadRegs x

/-- A fact about every row is checked row by row. -/
theorem forall_row {P : Word × Word → Prop} [DecidablePred P] (h : opcodeMap.all (fun r => decide (P r)) = true) :
    ∀ r ∈ opcodeMap, P r :=
  fun r hr => of_decide_eq_true (List.all_eq_true.1 h r hr)

/-- A row's mask covers the digits by which the family of its match is decoded. -/
theorem opcodeMap_masks : ∀ r ∈ opcodeMap,
    fieldF r.1 = 0xF#4 ∧ (r.2.toNat / 4096 = 0 → r.1 = 0xFFFF#16) ∧
    (r.2.toNat / 4096 ∈ [5, 8, 9] → fieldN r.1 = 0xF#4) ∧
    (r.2.toNat / 4096 ∈ [0xE, 0xF] → fieldNN r.1 = 0xFF#8) := forall_row (by decide)

theorem opcodeMap_legal : ∀ r ∈ opcodeMap, decode r.2 ≠ .error .illegalWord := forall_row (by decide)

/-- Where a row applies, the word and the row's match agree in every field the mask covers. -/
theorem field_of_rowApplies {op : Word} {r : Word × Word} (h : rowApplies op r = true) (start len : Nat)
    (hmask : r.1.extractLsb' start len = BitVec.allOnes len) :
    op.extractLsb' start len = r.2.extractLsb' start len := by
  rw [← beq_iff_eq.1 h, BitVec.extractLsb'_and, hmask, BitVec.and_allOnes]

/-- A word a row applies to is legal, for it agrees with the row's match, a legal word, in every digit by which their
family is decoded. -/
theorem legal_of_rowApplies {op : Word} {r : Word × Word} (hr : r ∈ opcodeMap) (h : rowApplies op r = true) :
    decode op ≠ .error .illegalWord := by
  obtain ⟨hF, hAll, hN, hNN⟩ := opcodeMap_masks r hr
  have eF : op.toNat / 4096 = r.2.toNat / 4096 := by
    rw [← toNat_fieldF, ← toNat_fieldF]
    exact congrArg BitVec.toNat (field_of_rowApplies h _ _ hF)
  have eAll (hk : r.2.toNat / 4096 = 0) : op.toNat = r.2.toNat := by
    rw [← beq_iff_eq.1 h, hAll hk]
    exact congrArg BitVec.toNat BitVec.and_allOnes.symm
  have eN (hk : r.2.toNat / 4096 ∈ [5, 8, 9]) : op.toNat % 16 = r.2.toNat % 16 := by
    rw [← toNat_fieldN, ← toNat_fieldN]
    exact congrArg BitVec.toNat (field_of_rowApplies h _ _ (hN hk))
  have eNN (hk : r.2.toNat / 4096 ∈ [0xE, 0xF]) : op.toNat % 256 = r.2.toNat % 256 := by
    rw [← toNat_fieldNN, ← toNat_fieldNN]
    exact congrArg BitVec.toNat (field_of_rowApplies h _ _ (hNN hk))
  refine fun hop => opcodeMap_legal r hr ?_
  rw [illegalWordsAreTheListedOnes, eF] at hop
  rw [illegalWordsAreTheListedOnes]
  rcases hop with ⟨hk, hop⟩ | ⟨hk, hop⟩ | ⟨hk, hop⟩ | ⟨hk, hop⟩ | ⟨hk, hop⟩ | ⟨hk, hop⟩
  · exact .inl ⟨hk, eAll hk ▸ hop⟩
  · exact .inr (.inl ⟨hk, eN (by simp [hk]) ▸ hop⟩)
  · exact .inr (.inr (.inl ⟨hk, eN (by simp [hk]) ▸ hop⟩))
  · exact .inr (.inr (.inr (.inl ⟨hk, eN (by simp [hk]) ▸ hop⟩)))
  · exact .inr (.inr (.inr (.inr (.inl ⟨hk, eNN (by simp [hk]) ▸ hop⟩))))
  · exact .inr (.inr (.inr (.inr (.inr ⟨hk, eNN (by simp [hk]) ▸ hop⟩))))

/-- Settles O4: a decoded word is its instruction's encoding, which matches its row, and a word some row applies to is
legal, so that it decodes, to an instruction of the one row that applies. -/
theorem decodeFollowsOpcodeMap : Obligations.DecodeFollowsOpcodeMap := by
  have hown (op : Word) (i : Instr) (hi : decode op = .ok i) : i.row ∈ opcodeMap ∧ rowApplies op i.row = true := by
    obtain ⟨hw, rfl⟩ := encodes_of_decode hi
    exact ⟨i.row_mem_opcodeMap, rowApplies_encode i hw⟩
  refine ⟨opcodeMap_disjoint, fun op => ⟨hown op, fun r hr har => ?_⟩⟩
  cases hd : decode op with
  | ok i =>
    obtain ⟨hmem, happlies⟩ := hown op i hd
    exact ⟨i, rfl, row_unique hmem hr happlies har⟩
  | error e =>
    obtain rfl := decode_error hd
    exact absurd hd (legal_of_rowApplies hr har)

/-- Settles O1: the twelve words, decoded. -/
theorem sampleWordsDecode : Obligations.SampleWordsDecode := by
  unfold Obligations.SampleWordsDecode
  decide

end Sys2Proof

namespace Sys2Proof.Machine

/-! ## MODE is apart from what most instructions do (R25, R98) -/

theorem State.writeBytes_inMode (s : State) (m : Mode) (a : Nat) (bs : List Byte) :
    (s.inMode m).writeBytes a bs = (s.writeBytes a bs).inMode m := by
  induction bs generalizing s a with
  | nil => rfl
  | cons b bs ih => exact ih (s.writeByte a b) (a + 1)

theorem State.takeKey_inMode (s : State) (m : Mode) (x : Reg) :
    (s.inMode m).takeKey x = (s.takeKey x).inMode m := by
  unfold State.takeKey
  rw [State.inMode_inputs]
  cases s.inputs.keys <;> rfl

/-- Two guarded answers differ by an update where their branches do. -/
theorem ite_mapNext {p : Prop} {_ : Decidable p} {f : State → State} {a a' b b' : Result} (ha : a' = mapNext f a)
    (hb : b' = mapNext f b) : (if p then a' else b') = mapNext f (if p then a else b) := by
  rw [ha, hb, apply_ite (mapNext f)]

/-- Settles O37: outside the five, an instruction's meaning reads no MODE, and each of its updates leaves MODE as it
is. -/
theorem modeMattersToFiveInstructionsOnly : Obligations.ModeMattersToFiveInstructionsOnly := by
  intro i s m hi
  cases i with
  | shr | shl | jpOffset | storeRegs | loadRegs => cases hi
  | call | ret | drw => exact ite_mapNext rfl rfl
  | bcd x =>
    refine ite_mapNext ?_ rfl
    rw [State.writeBytes_inMode]
    rfl
  | waitKey x => exact congrArg Host.Outcome.next (s.takeKey_inMode m x)
  | _ => rfl

/-! ## The step frame (R103) -/

/-- Settles O45: the event is the step or the Tick the agenda or the free run names, and the frame of a step fetches by
the PC and memory of the state before. -/
theorem stepRunsDecodedInstruction : Obligations.StepRunsDecodedInstruction := by
  intro s i hf hp hd
  refine ⟨fun inp rest ha => ?commanded, fun ha hu => ?free, fun ha hu => ?freeTick⟩
  case commanded =>
    rw [step_commanded s rest inp ha hf]
    exact interpret_of_decode _ i hp hd
  case free =>
    rw [step_free s ha hf hu]
    exact interpret_of_decode _ i hp hd
  case freeTick =>
    rw [step_freeTick s ha hf hu]
    exact congrArg Host.Outcome.next (State.tick_of_clear _ hf)

end Sys2Proof.Machine

/-! SUPPORT. The statements about the display: 00E0, Dxyn pixel by pixel, and a sprite drawn twice (40_display.md). -/

namespace Sys2Proof.Machine

/-! ## The queries of one sprite, once and again -/

section
variable {w : Nat} {ps : List (Nat × Nat)} {lit : List Nat} (hlit : lit.Pairwise (· < ·))
  (hps : (ps.map (pixelNumber w)).Nodup)
include hlit hps

/-- The same queries once more undo themselves: every queried pixel is inverted twice. -/
theorem drawPixels_drawPixels : (drawPixels w ps (drawPixels w ps lit).1).1 = lit := by
  obtain ⟨hsorted, hmem, -⟩ := drawPixels_spec w ps lit hlit hps
  obtain ⟨hsorted', hmem', -⟩ := drawPixels_spec w ps _ hsorted hps
  refine hsorted'.eq_of_mem_iff hlit fun q => ?_
  rw [hmem', hmem]
  tauto

/-- Queries that turned no lit pixel off have lit every pixel they name, so that the same queries once more turn off
each of them. -/
theorem drawPixels_collides_again (hclear : (drawPixels w ps lit).2 = false) :
    (drawPixels w ps (drawPixels w ps lit).1).2 = true ↔ ∃ p, p ∈ ps := by
  obtain ⟨hsorted, hmem, hflag⟩ := drawPixels_spec w ps lit hlit hps
  obtain ⟨-, -, hflag'⟩ := drawPixels_spec w ps _ hsorted hps
  have hunlit : ∀ p ∈ ps, pixelNumber w p ∉ lit := by simpa [hclear] using hflag
  have hlitNow : ∀ p ∈ ps, pixelNumber w p ∈ (drawPixels w ps lit).1 := fun p hp =>
    (hmem _).2 (iff_of_false (hunlit p hp) (not_not_intro (List.mem_map_of_mem hp)))
  exact hflag'.trans (exists_congr fun p => and_iff_left_of_imp (hlitNow p))

end

/-! ## The state after Dxyn -/

theorem flagByte_zero (b : Bool) : flagByte b = 0 ↔ b = false := by cases b <;> decide

theorem flagByte_zero_or_one (b : Bool) : flagByte b = 0 ∨ flagByte b = 1 := by cases b <;> decide

/-- The framebuffer after the queries of a Dxyn, and whether one of them turned a lit pixel off. -/
def drawn (x y : Reg) (n : Nat) (s : State) : List Nat × Bool :=
  drawPixels s.cfg.displayWidth (drawQueries x y n s) s.lit

/-- The state a Dxyn that completes leaves. -/
def State.afterDrw (s : State) (x y : Reg) (n : Nat) : State :=
  ((s.setLit (drawn x y n s).1).setFlag (drawn x y n s).2).advance

/-- Dxyn completes exactly where its rows lie in memory, and what it leaves is `afterDrw`. -/
theorem exec_drw_iff {x y : Reg} {n : Nat} {s t : State} :
    exec (.drw x y n) s = .next t ↔ (n = 0 ∨ s.i.toNat + n ≤ 4096) ∧ t = s.afterDrw x y n := by
  rw [← rangeInMemory_iff]
  constructor
  · intro h
    obtain ⟨hr, rfl⟩ := next_of_guarded h
    exact ⟨hr, rfl⟩
  · rintro ⟨hr, rfl⟩
    exact if_pos hr

section
variable (s : State) (x y : Reg) (n : Nat)

@[simp] theorem State.afterDrw_lit : (s.afterDrw x y n).lit = (drawn x y n s).1 := rfl
@[simp] theorem State.afterDrw_cfg : (s.afterDrw x y n).cfg = s.cfg := rfl
@[simp] theorem State.afterDrw_i : (s.afterDrw x y n).i = s.i := rfl
@[simp] theorem State.readByte_afterDrw (a : Nat) : (s.afterDrw x y n).readByte a = s.readByte a := rfl

@[simp] theorem State.getV_vf_afterDrw : (s.afterDrw x y n).getV vf = flagByte (drawn x y n s).2 := by
  simp [State.afterDrw]

theorem State.getV_afterDrw_ne {r : Reg} (h : r ≠ vf) : (s.afterDrw x y n).getV r = s.getV r := by
  simp [State.afterDrw, State.getV_setV_ne, h]

theorem State.keepsControl_afterDrw : KeepsControl s (s.afterDrw x y n) :=
  ⟨rfl, rfl, rfl, rfl, rfl, rfl, rfl, rfl, rfl⟩

/-- A Dxyn that reads no coordinate from VF leaves everything its queries depend on as it was. -/
theorem drawQueries_afterDrw (hx : x ≠ vf) (hy : y ≠ vf) :
    drawQueries x y n (s.afterDrw x y n) = drawQueries x y n s := by
  simp only [drawQueries, State.readBytes, State.afterDrw_cfg, State.afterDrw_i, State.readByte_afterDrw,
    State.getV_afterDrw_ne, ne_eq, hx, hy, not_false_eq_true]

/-- The second draw of a sprite makes the queries of the first, on the framebuffer the first left. -/
theorem drawn_afterDrw (hx : x ≠ vf) (hy : y ≠ vf) :
    drawn x y n (s.afterDrw x y n) = drawPixels s.cfg.displayWidth (drawQueries x y n s) (drawn x y n s).1 := by
  rw [drawn, drawQueries_afterDrw s x y n hx hy, State.afterDrw_cfg, State.afterDrw_lit]

end

/-! ## A draw in terms of the sprite's bits (R121) -/

theorem State.Good.lit_pairwise {s : State} (hs : s.Good) : s.lit.Pairwise (· < ·) := ((litWf_iff _ _).1 hs.lit).1

/-- No pixel number is queried twice by one Dxyn. -/
theorem drawQueries_numbers_nodup (x y : Reg) (n : Nat) (s : State) :
    ((drawQueries x y n s).map (pixelNumber s.cfg.displayWidth)).Nodup := spritePixels_numbers_nodup ..

section
variable {s : State} (hs : s.Good) (x y : Reg) (n : Nat)
include hs

/-- Every pixel of the display is inverted exactly where the sprite has a set bit. -/
theorem pixelLit_afterDrw {col row : Nat} (hc : col < s.cfg.displayWidth) (hr : row < s.cfg.displayHeight) :
    (s.afterDrw x y n).pixelLit col row = (s.pixelLit col row ^^ spriteBit x y n s col row) := by
  obtain ⟨-, hmem, -⟩ := drawPixels_spec s.cfg.displayWidth (drawQueries x y n s) s.lit hs.lit_pairwise
    (drawQueries_numbers_nodup x y n s)
  have hquery : (col, row) ∈ drawQueries x y n s ↔ spriteBit x y n s col row = true := by
    simp [mem_drawQueries, hc, hr]
  rw [Bool.eq_iff_iff, State.pixelLit, State.pixelLit, State.afterDrw_lit, State.afterDrw_cfg, drawn,
    decide_eq_true_iff, hmem, mem_drawNumbers x y n s col row hc, hquery]
  cases spriteBit x y n s col row <;> simp

/-- The flag of a Dxyn: a lit pixel of the display at which the sprite has a set bit. -/
theorem drawn_collides_iff : (drawn x y n s).2 = true ↔ ∃ col row, col < s.cfg.displayWidth ∧
    row < s.cfg.displayHeight ∧ spriteBit x y n s col row = true ∧ s.pixelLit col row = true := by
  obtain ⟨-, -, hflag⟩ := drawPixels_spec s.cfg.displayWidth (drawQueries x y n s) s.lit hs.lit_pairwise
    (drawQueries_numbers_nodup x y n s)
  simp only [drawn, hflag, Prod.exists, mem_drawQueries, State.pixelLit, decide_eq_true_iff, and_assoc]

end

/-! ## The obligations -/

/-- Settles O21: the queries are the sprite's set bits inside the clip, each inverts its pixel once, and the rest of
the state is outside what Dxyn writes. -/
theorem drawTogglesSpritePixels : Obligations.DrawTogglesSpritePixels := by
  intro x y n s hs hrows
  have hgood := (State.inv_iff s).1 hs
  refine ⟨s.afterDrw x y n, exec_drw_iff.2 ⟨hrows, rfl⟩, fun _ _ => pixelLit_afterDrw hgood x y n, ?flag, ?bit, rfl,
    ?regs, rfl, s.readByte_afterDrw x y n, ⟨rfl, rfl⟩, rfl, s.keepsControl_afterDrw x y n⟩
  case flag => rw [State.getV_vf_afterDrw, flagByte_one, drawn_collides_iff hgood]
  case bit => exact s.getV_vf_afterDrw x y n ▸ flagByte_zero_or_one _
  case regs => exact fun _ hr => s.getV_afterDrw_ne x y n (List.ne_of_not_mem_cons hr)

/-- Settles O22: the second draw makes the queries of the first again, which undo themselves, and without a collision
the first has lit every pixel the second then turns off. -/
theorem drawingTwiceRestoresDisplay : Obligations.DrawingTwiceRestoresDisplay := by
  intro x y n s t hs hx hy h
  obtain ⟨hrows, rfl⟩ := exec_drw_iff.1 h
  have hsorted := ((State.inv_iff s).1 hs).lit_pairwise
  have hnodup := drawQueries_numbers_nodup x y n s
  have hagain := drawn_afterDrw s x y n hx hy
  refine ⟨_, exec_drw_iff.2 ⟨hrows, rfl⟩, ?restored, fun hclear => ?collides⟩
  case restored =>
    rw [State.afterDrw_lit, hagain]
    exact drawPixels_drawPixels hsorted hnodup
  case collides =>
    rw [State.getV_vf_afterDrw, flagByte_zero] at hclear
    rw [State.getV_vf_afterDrw, flagByte_one, hagain, drawn, drawPixels_collides_again hsorted hnodup hclear]
    simp only [Prod.exists, mem_drawQueries]

/-- Settles O20: the cleared framebuffer lists no lit pixel. -/
theorem clearTurnsEveryPixelOff : Obligations.ClearTurnsEveryPixelOff := by
  intro s
  have hoff (col row : Nat) : s.clearDisplay.advance.pixelLit col row = false := by simp [State.pixelLit]
  exact ⟨s.clearDisplay.advance, rfl, hoff, rfl, fun _ _ => rfl, rfl, fun _ => rfl, ⟨rfl, rfl⟩, rfl,
    rfl, rfl, rfl, rfl, rfl, rfl, rfl, rfl, rfl⟩

end Sys2Proof.Machine

/-! SUPPORT. The statements about control transfer: jumps, skips, calls and returns, and the advance of every other
instruction (41_control_flow.md). -/

namespace Sys2Proof.Machine

/-! ## What a write of PC and of the call stack leaves alone -/

theorem State.onlyRegs_setPc (s : State) (w : Word) : OnlyRegs [] s (s.setPc w) :=
  ⟨fun _ _ => rfl, rfl, s.readByte_setPc w, ⟨rfl, rfl⟩, rfl, rfl, rfl, rfl, rfl, rfl, rfl, rfl, rfl, rfl, rfl⟩

/-- The frame of 2nnn and 00EE, which write PC, the stack and SP alone. -/
theorem keeps_all_but_stack {s t : State} (h : t = { s with pc := t.pc, stack := t.stack, sp := t.sp }) :
    KeepsRegs [] s t ∧ t.i = s.i ∧ KeepsMem s t ∧ t.timers = s.timers ∧ KeepsRest s t := by
  rw [h]
  exact ⟨fun _ _ => rfl, rfl, fun _ => rfl, rfl, rfl, rfl, rfl, rfl, rfl, rfl, rfl, rfl, rfl, rfl⟩

/-- A slot's value depends on the stack alone. -/
theorem State.slot_congr {s t : State} (h : s.stack = t.stack) (k : Nat) : s.slot k = t.slot k := by
  rw [State.slot, State.slot, h]

/-! ## Calls and returns with the stack neither full nor empty -/

theorem exec_call {s : State} (h : s.sp < 32) (nnn : Word) :
    exec (.call nnn) s = .next ((s.push (s.pc + 2)).setPc nnn) := if_pos h

theorem exec_ret {s : State} (h : 0 < s.sp) : exec .ret s = .next (s.pop.setPc (s.slot (s.sp - 1))) := if_neg h.ne'

theorem State.slot_push_self {s : State} (h : s.sp < 32) (w : Word) : (s.push w).slot s.sp = w :=
  (s.slot_push w s.sp h).trans (if_pos rfl)

theorem State.slot_push_ne {s : State} (h : s.sp < 32) (w : Word) {k : Nat} (hk : k ≠ s.sp) :
    (s.push w).slot k = s.slot k := (s.slot_push w k h).trans (if_neg hk)

/-! ## Skips and the offset jump -/

/-- An instruction that only skips, on whatever condition its Boolean stands for. -/
theorem skip_movesPc {i : Instr} {s : State} {c : Bool} {p : Prop} [Decidable p]
    (h : exec i s = .next (s.skipIf c)) (hc : c = true ↔ p) :
    ∃ t, exec i s = .next t ∧ OnlyRegs [] s t ∧ t.pc = if p then s.pc + 4 else s.pc + 2 :=
  ⟨_, h, s.onlyRegs_setPc _, if_congr hc rfl rfl⟩

theorem byte_beq_iff (a b : Byte) : (a == b) = true ↔ a.toNat = b.toNat := beq_iff_eq.trans BitVec.toNat_inj.symm

theorem byte_bne_iff (a b : Byte) : (a != b) = true ↔ a.toNat ≠ b.toNat :=
  bne_iff_ne.trans (not_congr BitVec.toNat_inj.symm)

/-- A 12-bit address plus a byte stays inside 16 bits. -/
theorem toNat_address_add_byte {nnn : Word} (h : nnn.toNat < 0x1000) (b : Byte) :
    (nnn + b.setWidth 16).toNat = nnn.toNat + b.toNat := by
  have hb : (b.setWidth 16).toNat = b.toNat := BitVec.toNat_setWidth_of_le (by decide)
  rw [BitVec.toNat_add_of_lt (by omega), hb]

/-- Of a 12-bit address, bits 11 to 8 are all that lies above the low byte. -/
theorem val_offsetRegister_extended {nnn : Word} (h : nnn.toNat < 0x1000) :
    (offsetRegister .extended nnn).val = nnn.toNat / 256 := by
  have : (offsetRegister .extended nnn).val = nnn.toNat / 256 % 16 := val_fieldX nnn
  omega

/-! ## The default advance (R103, R138) -/

/-- Outside the control transfers, every effect ends in the default advance, and none of its other updates writes
PC. -/
theorem Effect.pc_advanced {i : Instr} {s t : State} (h : Effect s i t) (hi : steersPc i = false) :
    t.pc = s.pc + 2 := by
  cases h with
  | fatal hstack => obtain ⟨⟨nnn, rfl⟩, -⟩ | ⟨rfl, -⟩ := hstack <;> cases hi
  | steer w hsteers => cases hi.symm.trans hsteers
  | call | ret | waitKey => cases hi
  | _ => simp

/-! ## The obligations -/

/-- Settles O27: the call's slot is the newest one of any state with its stack, and the return moves no slot. -/
theorem callThenReturnResumesAfterCall : Obligations.CallThenReturnResumesAfterCall := by
  intro nnn s hs
  refine ⟨_, exec_call hs nnn, fun r hsp hstack => ?_⟩
  have hsp : r.sp = s.sp + 1 := hsp
  have hslot : ∀ k, r.slot k = (s.push (s.pc + 2)).slot k := State.slot_congr hstack
  refine ⟨_, exec_ret (hsp ▸ Nat.succ_pos _), ?pc, ?sp, fun k hk => ?older⟩
  case pc => rw [State.setPc_pc, hsp, Nat.add_sub_cancel, hslot, State.slot_push_self hs]
  case sp => rw [State.setPc_sp, State.pop_sp, hsp, Nat.add_sub_cancel]
  case older => rw [State.slot_setPc, State.slot_pop, hslot, State.slot_push_ne hs _ hk.ne]

/-- Settles O42, by the effects an instruction can have. -/
theorem otherInstructionsAdvancePcByTwo : Obligations.OtherInstructionsAdvancePcByTwo :=
  fun _ _ _ hi h => (exec_effect h).pc_advanced hi

/-- Settles O23: the jump is one write of PC. -/
theorem jumpSetsPc : Obligations.JumpSetsPc := fun nnn s => ⟨s.setPc nnn, rfl, rfl, s.onlyRegs_setPc nnn⟩

/-- Settles O24: below capacity, slot SP exists and takes the pushed address. -/
theorem callPushesReturnAddress : Obligations.CallPushesReturnAddress := fun nnn _ hs =>
  ⟨_, exec_call hs nnn, State.slot_push_self hs _, fun _ => State.slot_push_ne hs _, rfl, rfl, keeps_all_but_stack rfl⟩

/-- Settles O25: the return only moves PC and SP. -/
theorem returnPopsAddress : Obligations.ReturnPopsAddress := fun _ hs =>
  ⟨_, exec_ret hs, rfl, Nat.sub_add_cancel hs, rfl, keeps_all_but_stack rfl⟩

/-- Settles O28: both are skips, on equality and on its negation. -/
theorem immediateSkipsMovePc : Obligations.ImmediateSkipsMovePc := fun x nn s =>
  ⟨skip_movesPc rfl (byte_beq_iff (s.getV x) nn), skip_movesPc rfl (byte_bne_iff (s.getV x) nn)⟩

/-- Settles O29: both are skips, on equality and on its negation. -/
theorem registerSkipsMovePc : Obligations.RegisterSkipsMovePc := fun x y s =>
  ⟨skip_movesPc rfl (byte_beq_iff (s.getV x) (s.getV y)), skip_movesPc rfl (byte_bne_iff (s.getV x) (s.getV y))⟩

/-- Settles O30: the sum does not wrap, and the register it takes is the one the mode names. -/
theorem jumpWithOffsetFollowsMode : Obligations.JumpWithOffsetFollowsMode := by
  intro nnn s hn
  have hsum := toNat_address_add_byte hn (s.getV (offsetRegister s.mode nnn))
  refine ⟨_, rfl, fun hm => ?legacy, fun hm r hr => ?extended, s.onlyRegs_setPc _⟩
  case legacy =>
    have hreg : offsetRegister s.mode nnn = 0 := by rw [hm, offsetRegister]
    rw [State.setPc_pc, hsum, hreg]
  case extended =>
    have hreg : offsetRegister s.mode nnn = r := by
      rw [hm]
      exact Fin.ext ((val_offsetRegister_extended hn).trans hr.symm)
    rw [State.setPc_pc, hsum, hreg]

end Sys2Proof.Machine

/-! SUPPORT. The statements about the register load and ALU instructions: what a result and a flag written to the
registers leave, the arithmetic of the values, and the mode's shift source (42_alu.md). -/

namespace Sys2Proof.Machine

/-! ## A result in a register (R150 to R155) -/

/-- The frame of an instruction that writes registers and PC alone. -/
theorem onlyRegs_of_eq {changed : List Reg} {s t : State} (h : t = { s with v := t.v, pc := t.pc })
    (hregs : KeepsRegs changed s t) : OnlyRegs changed s t := by
  refine ⟨hregs, ?_⟩
  rw [h]
  exact ⟨rfl, fun _ => rfl, ⟨rfl, rfl⟩, rfl, rfl, rfl, rfl, rfl, rfl, rfl, rfl, rfl, rfl, rfl⟩

theorem State.getV_writeResult (s : State) (x : Reg) (b : Byte) : (s.writeResult x b).getV x = b := by simp

theorem State.onlyRegs_writeResult (s : State) (x : Reg) (b : Byte) : OnlyRegs [x] s (s.writeResult x b) :=
  onlyRegs_of_eq rfl fun _ hr => s.getV_setV_ne x _ b (List.ne_of_not_mem_cons hr)

/-! ## A result, then a flag in VF (R156 to R162) -/

section
variable (s : State) (x : Reg) (b : Byte) (c : Bool)

theorem State.getV_vf_writeResultFlag : (s.writeResultFlag x b c).getV vf = flagByte c := by simp

/-- The flag written last does not reach a result outside VF. -/
theorem State.getV_writeResultFlag (hx : x ≠ vf) : (s.writeResultFlag x b c).getV x = b := by
  simp [State.getV_setV_ne, hx]

theorem State.onlyRegs_writeResultFlag : OnlyRegs [x, vf] s (s.writeResultFlag x b c) := by
  refine onlyRegs_of_eq rfl fun r hr => ?_
  have hne : r ≠ x ∧ r ≠ vf := by simpa using hr
  simp [State.getV_setV_ne, hne]

end

/-- An instruction that completes with a result and a flag, in the numbers they stand for. -/
theorem completes_with_result_and_flag {i : Instr} {s : State} {x : Reg} {b : Byte} {c : Bool} {result flag : Nat}
    (h : exec i s = .next (s.writeResultFlag x b c)) (hb : b.toNat = result) (hc : (flagByte c).toNat = flag) :
    ∃ t, exec i s = .next t ∧ (x ≠ vf → (t.getV x).toNat = result) ∧ (t.getV vf).toNat = flag ∧
      t.pc = s.pc + 2 ∧ OnlyRegs [x, vf] s t := by
  refine ⟨_, h, fun hx => ?result, ?flag, rfl, s.onlyRegs_writeResultFlag x b c⟩
  case result => rw [s.getV_writeResultFlag x b c hx, hb]
  case flag => rw [s.getV_vf_writeResultFlag x b c, hc]

/-! ## The values and the flags as numbers -/

theorem toNat_flagByte_decide (p : Prop) [Decidable p] : (flagByte (decide p)).toNat = if p then 1 else 0 := by
  simp [flagByte_toNat]

/-- A difference of bytes, with the borrow added in front. -/
theorem toNat_byte_sub (a b : Byte) : (a - b).toNat = (a.toNat + 256 - b.toNat) % 256 := by
  have := b.isLt
  rw [BitVec.toNat_sub]
  omega

theorem toNat_ushiftRight_one (b : Byte) : (b >>> 1).toNat = b.toNat / 2 := by
  rw [BitVec.toNat_ushiftRight, Nat.shiftRight_one]

theorem toNat_shiftLeft_one (b : Byte) : (b <<< 1).toNat = b.toNat * 2 % 256 := by
  rw [BitVec.toNat_shiftLeft, Nat.shiftLeft_eq, pow_one]

theorem toNat_flagByte_testBit (n k : Nat) : (flagByte (n.testBit k)).toNat = n / 2 ^ k % 2 := by
  rw [flagByte_toNat, ← Nat.toNat_testBit]
  cases n.testBit k <;> rfl

theorem toNat_shiftedOutRight (b : Byte) : (flagByte (shiftedOutRight b)).toNat = b.toNat % 2 := by
  have h : (flagByte (shiftedOutRight b)).toNat = b.toNat / 2 ^ 0 % 2 := toNat_flagByte_testBit b.toNat 0
  rw [h, pow_zero, Nat.div_one]

/-- Above bit 7 a byte has none. -/
theorem toNat_shiftedOutLeft (b : Byte) : (flagByte (shiftedOutLeft b)).toNat = b.toNat / 128 := by
  have h : (flagByte (shiftedOutLeft b)).toNat = b.toNat / 2 ^ 7 % 2 := toNat_flagByte_testBit b.toNat 7
  have := b.isLt
  omega

/-! ## The shift source (R158, R160) -/

theorem shiftSource_legacy {s : State} (h : s.mode = .legacy) (x y : Reg) : shiftSource s x y = s.getV y := by
  rw [shiftSource, h]

theorem shiftSource_extended {s : State} (h : s.mode = .extended) (x y : Reg) : shiftSource s x y = s.getV x := by
  rw [shiftSource, h]

/-- An instruction that completes with a result and a flag computed from its shift source, in the terms of either
mode. -/
theorem completes_with_shift {i : Instr} {s : State} {x y : Reg} {f : Byte → Byte} {c : Byte → Bool}
    (result flag : Nat → Nat) (hf : ∀ b, (f b).toNat = result b.toNat)
    (hc : ∀ b, (flagByte (c b)).toNat = flag b.toNat)
    (h : exec i s = .next (s.writeResultFlag x (f (shiftSource s x y)) (c (shiftSource s x y)))) :
    ∃ t, exec i s = .next t ∧
      (s.mode = .legacy → (x ≠ vf → (t.getV x).toNat = result (s.getV y).toNat) ∧
        (t.getV vf).toNat = flag (s.getV y).toNat) ∧
      (s.mode = .extended → (x ≠ vf → (t.getV x).toNat = result (s.getV x).toNat) ∧
        (t.getV vf).toNat = flag (s.getV x).toNat) ∧
      t.pc = s.pc + 2 ∧ OnlyRegs [x, vf] s t := by
  obtain ⟨t, ht, hresult, hflag, hframe⟩ := completes_with_result_and_flag h (hf _) (hc _)
  exact ⟨t, ht, fun hm => shiftSource_legacy hm x y ▸ ⟨hresult, hflag⟩,
    fun hm => shiftSource_extended hm x y ▸ ⟨hresult, hflag⟩, hframe⟩

/-! ## The obligations -/

/-- Settles O6: each is one result written, and the sum of two bytes wraps. -/
theorem loadAddCopyWriteOneRegister : Obligations.LoadAddCopyWriteOneRegister := by
  intro x y nn s
  refine ⟨⟨_, rfl, s.getV_writeResult x _, rfl, s.onlyRegs_writeResult x _⟩,
    ⟨_, rfl, ?sum, rfl, s.onlyRegs_writeResult x _⟩,
    ⟨_, rfl, s.getV_writeResult x _, rfl, s.onlyRegs_writeResult x _⟩⟩
  case sum => rw [State.getV_writeResult, BitVec.toNat_add]

/-- Settles O7: each is one result written, whose bits the operation on bytes combines one by one. -/
theorem logicWritesOneRegister : Obligations.LogicWritesOneRegister := by
  intro x y s
  refine ⟨⟨_, rfl, fun k => ?or, rfl, s.onlyRegs_writeResult x _⟩,
    ⟨_, rfl, fun k => ?and, rfl, s.onlyRegs_writeResult x _⟩,
    ⟨_, rfl, fun k => ?xor, rfl, s.onlyRegs_writeResult x _⟩⟩
  case or => rw [State.getV_writeResult, BitVec.getLsbD_or]
  case and => rw [State.getV_writeResult, BitVec.getLsbD_and]
  case xor => rw [State.getV_writeResult, BitVec.getLsbD_xor]

/-- Settles O8: the sum of bytes is the sum modulo 256, and the flag is its carry. -/
theorem addSetsCarry : Obligations.AddSetsCarry := fun _ _ _ =>
  completes_with_result_and_flag rfl (BitVec.toNat_add _ _) (toNat_flagByte_decide _)

/-- Settles O9: both are a difference of bytes and the comparison of its operands, in the two orders. -/
theorem subtractsSetNotBorrow : Obligations.SubtractsSetNotBorrow := fun _ _ _ =>
  ⟨completes_with_result_and_flag rfl (toNat_byte_sub _ _) (toNat_flagByte_decide _),
    completes_with_result_and_flag rfl (toNat_byte_sub _ _) (toNat_flagByte_decide _)⟩

/-- Settles O10: the shift halves its source, and the flag is the remainder. -/
theorem shiftRightFollowsMode : Obligations.ShiftRightFollowsMode := fun _ _ _ =>
  completes_with_shift (· / 2) (· % 2) toNat_ushiftRight_one toNat_shiftedOutRight rfl

/-- Settles O11: the shift doubles its source modulo 256, and the flag is the quotient of the source by 128. -/
theorem shiftLeftFollowsMode : Obligations.ShiftLeftFollowsMode := fun _ _ _ =>
  completes_with_shift (· * 2 % 256) (· / 128) toNat_shiftLeft_one toNat_shiftedOutLeft rfl

end Sys2Proof.Machine

/-! SUPPORT. The statements about the index register and memory: who writes I and the call stack, what I becomes, and
what a store to memory and a load from it leave (43_index_memory.md). -/

namespace Sys2Proof.Machine

/-! ## What an effect leaves of I and of the call stack (R176, R24) -/

section
variable {i : Instr} {s t : State} (h : Effect s i t)
include h

theorem Effect.keeps_i (hi : writesI i = false) : t.i = s.i := by
  cases h with
  | index w hw => cases hi.symm.trans hw
  | addI | storeRegs | loadRegs => cases hi
  | _ => simp

/-- In Extended mode no instruction that reads MODE moves I: those that would are Fx55 and Fx65. -/
theorem Effect.keeps_i_of_extended (hi : readsMode i = true) (hm : s.mode = .extended) : t.i = s.i := by
  cases h with
  | index w hw hr => cases hi.symm.trans hr
  | addI => cases hi
  | storeRegs | loadRegs => simp [State.advanceI_of_extended, hm]
  | _ => simp

theorem Effect.keeps_stack (hi : ∀ nnn, i ≠ .call nnn) : t.stack = s.stack := by
  cases h with
  | call nnn => exact absurd rfl (hi nnn)
  | _ => simp

theorem Effect.keeps_sp (hcall : ∀ nnn, i ≠ .call nnn) (hret : i ≠ .ret) : t.sp = s.sp := by
  cases h with
  | call nnn => exact absurd rfl (hcall nnn)
  | ret => exact absurd rfl hret
  | _ => simp

end

/-! ## What a write of registers, I and PC leaves alone -/

theorem keeps_all_but_regs_and_i {s t : State} (h : t = { s with v := t.v, i := t.i, pc := t.pc }) :
    KeepsMem s t ∧ KeepsStack s t ∧ t.timers = s.timers ∧ KeepsRest s t := by
  rw [h]
  exact ⟨fun _ => rfl, ⟨rfl, rfl⟩, rfl, rfl, rfl, rfl, rfl, rfl, rfl, rfl, rfl, rfl, rfl⟩

/-- The frame of Annn and Fx29, whatever they put into I. -/
theorem State.onlyRegsAndI_setI (s : State) (w : Word) : OnlyRegsAndI [] s (s.setI w).advance :=
  ⟨fun _ _ => rfl, keeps_all_but_regs_and_i rfl⟩

/-! ## The values I takes (R170 to R172) -/

/-- An address the decoder gives Annn has 12 bits. -/
theorem toNat_le_of_decode_ldI {op nnn : Word} (h : decode op = .ok (.ldI nnn)) : nnn.toNat ≤ 0x0FFF := by
  obtain ⟨hfits, -⟩ := encodes_of_decode h
  exact Nat.le_of_lt_succ (of_decide_eq_true hfits)

theorem toNat_index_add_byte (w : Word) (b : Byte) :
    (w + b.setWidth 16).toNat = (w.toNat + b.toNat) % 65536 := by
  have hb : (b.setWidth 16).toNat = b.toNat := BitVec.toNat_setWidth_of_le (by decide)
  rw [BitVec.toNat_add, hb]

/-- A number that fits the width is the value of its word. -/
theorem toNat_ofNat_fits {w n : Nat} (h : n < 2 ^ w) : (BitVec.ofNat w n).toNat = n := by
  rw [BitVec.toNat_ofNat, Nat.mod_eq_of_lt h]

theorem val_lowNibble (b : Byte) : (lowNibble b).val = b.toNat % 16 := by
  simp only [lowNibble, BitVec.val_toFin, BitVec.extractLsb'_toNat, Nat.shiftRight_zero]

/-- Under the constraints of R7 a glyph's address does not wrap. -/
theorem toNat_glyphAddress {c : Config} (hc : c.wf = true) (d : Fin 16) :
    (glyphAddress c d).toNat = c.fontBase.toNat + 5 * d.val := by
  obtain ⟨hfont, -⟩ := (Config.wf_iff c).1 hc
  have hd : (BitVec.ofNat 16 (5 * d.val)).toNat = 5 * d.val := toNat_ofNat_fits (by omega)
  rw [glyphAddress, BitVec.toNat_add_of_lt (by omega), hd]

/-! ## Stores and loads from I on (R173 to R175) -/

/-- A range inside memory passes the bounds check. -/
theorem rangeInMemory_of_le {a k : Nat} (h : a + k ≤ 4096) : rangeInMemory a k = true :=
  (rangeInMemory_iff a k).2 (.inr h)

theorem exec_bcd {s : State} (h : s.i.toNat + 3 ≤ 4096) (x : Reg) :
    exec (.bcd x) s = .next (s.writeBytes s.i.toNat (bcdDigits (s.getV x))).advance :=
  if_pos (rangeInMemory_of_le h)

theorem exec_storeRegs {s : State} {x : Reg} (h : s.i.toNat + (x.val + 1) ≤ 4096) :
    exec (.storeRegs x) s =
      .next ((s.writeBytes s.i.toNat (s.regsUpTo x)).advanceI (x.val + 1)).advance :=
  if_pos (rangeInMemory_of_le h)

theorem exec_loadRegs {s : State} {x : Reg} (h : s.i.toNat + (x.val + 1) ≤ 4096) :
    exec (.loadRegs x) s = .next ((s.loadRegsFrom s.i.toNat x).advanceI (x.val + 1)).advance :=
  if_pos (rangeInMemory_of_le h)

/-- The advance of I writes I alone. -/
theorem State.advanceI_eq (s : State) (k : Nat) : s.advanceI k = s.setI (s.advanceI k).i := by
  unfold State.advanceI
  cases s.mode <;> rfl

/-- The frame of a store inside memory, whatever I and PC become. -/
theorem State.onlyMem_writeBytes {s : State} (hs : s.memOk) {a : Nat} {bs : List Byte}
    (hr : a + bs.length ≤ 4096) (w pc : Word) : OnlyMem a bs.length s (((s.writeBytes a bs).setI w).setPc pc) := by
  have hmem : KeepsMemOutside a bs.length s (((s.writeBytes a bs).setI w).setPc pc) := fun b hb => by
    simpa using State.keepsMemOutside_writeBytes hs (rangeInMemory_of_le hr) b hb
  exact ⟨fun _ _ => by simp, hmem, by simp [KeepsStack], by simp, by simp [KeepsRest, KeepsControl]⟩

/-- I after Fx55 and Fx65, in either mode: inside memory the advance does not wrap. -/
theorem i_advanceI_by_mode {s u : State} (hi : u.i = s.i) (hmode : u.mode = s.mode) {x : Reg}
    (h : s.i.toNat + x.val + 1 ≤ 4096) :
    (s.mode = .legacy → (u.advanceI (x.val + 1)).i.toNat = s.i.toNat + x.val + 1) ∧
      (s.mode = .extended → (u.advanceI (x.val + 1)).i = s.i) := by
  have hx : (BitVec.ofNat 16 (x.val + 1)).toNat = x.val + 1 := toNat_ofNat_fits (by omega)
  refine ⟨fun hm => ?legacy, fun hm => ?extended⟩
  case legacy =>
    rw [u.advanceI_of_legacy _ (hmode.trans hm), State.setI_i, hi, BitVec.toNat_add_of_lt (by omega), hx, Nat.add_assoc]
  case extended => rw [u.advanceI_of_extended _ (hmode.trans hm), hi]

/-- Fx33 stores the digit of each place at its address. -/
theorem State.readByte_writeBytes_bcd {s : State} (hs : s.memOk) {a : Nat} (ha : a + 3 ≤ 4096) (b : Byte) {k : Nat}
    (hk : k < 3) : (s.writeBytes a (bcdDigits b)).readByte (a + k) = (bcdDigits b).getD k 0 := by
  have hin : a ≤ a + k ∧ a + k < a + (bcdDigits b).length := ⟨Nat.le_add_right a k, Nat.add_lt_add_left hk a⟩
  rw [State.readByte_writeBytes_inRange hs (rangeInMemory_of_le ha), if_pos hin, Nat.add_sub_cancel_left]

/-- The decimal digits of a byte are bytes. -/
theorem toNat_bcdDigits (b : Byte) :
    ((bcdDigits b).getD 0 0).toNat = b.toNat / 100 ∧ ((bcdDigits b).getD 1 0).toNat = b.toNat / 10 % 10 ∧
      ((bcdDigits b).getD 2 0).toNat = b.toNat % 10 := by
  have := b.isLt
  exact ⟨toNat_ofNat_fits (by omega), toNat_ofNat_fits (by omega),
    toNat_ofNat_fits (by omega)⟩

/-! ## The obligations -/

/-- Settles O39, by the effects an instruction can have. -/
theorem indexAndStackChangeOnlyWhereNamed : Obligations.IndexAndStackChangeOnlyWhereNamed := by
  intro i s t h
  have heffect := exec_effect h
  exact ⟨heffect.keeps_i, heffect.keeps_i_of_extended, heffect.keeps_stack, heffect.keeps_sp⟩

/-- Settles O12: one write of I, whose operand the decoder reads from 12 bits. -/
theorem loadIndexSetsI : Obligations.LoadIndexSetsI := fun nnn s =>
  ⟨(s.setI nnn).advance, rfl, rfl, fun _ => toNat_le_of_decode_ldI, rfl, s.onlyRegsAndI_setI nnn⟩

/-- Settles O13: the 16-bit sum is the sum modulo 65536, and the flag is written to VF last. -/
theorem addIndexSetsRangeFlag : Obligations.AddIndexSetsRangeFlag := by
  intro x s
  refine ⟨_, rfl, toNat_index_add_byte s.i (s.getV x), ?flag, rfl, fun r hr => ?regs, keeps_all_but_regs_and_i rfl⟩
  case flag =>
    rw [State.advance_eq, State.getV_setPc, State.setFlag_eq, State.getV_setV_same]
    exact toNat_flagByte_decide _
  case regs => simp [State.getV_setV_ne, List.ne_of_not_mem_cons hr]

/-- Settles O14: the glyph's address is at most 15 glyphs above FONT_BASE, inside the font region. -/
theorem fontGlyphAddress : Obligations.FontGlyphAddress := by
  intro x s hc
  obtain ⟨hfont, -⟩ := (Config.wf_iff s.cfg).1 hc
  have haddr := toNat_glyphAddress hc (lowNibble (s.getV x))
  rw [val_lowNibble] at haddr
  exact ⟨_, rfl, haddr, haddr.trans_le (by omega), haddr.trans_lt (by omega), rfl, s.onlyRegsAndI_setI _⟩

/-- Settles O15: the three bytes stored are the digits, and each fits a byte. -/
theorem bcdStoresThreeDigits : Obligations.BcdStoresThreeDigits := by
  intro x s hs hr
  have hmem := ((State.inv_iff s).1 hs).mem
  have hbyte {k : Nat} (hk : k < 3) := State.readByte_writeBytes_bcd hmem hr (s.getV x) hk
  obtain ⟨hundreds, tens, ones⟩ := toNat_bcdDigits (s.getV x)
  refine ⟨_, exec_bcd hr x, ?hundreds, ?tens, ?ones, by simp, by simp, ?frame⟩
  case hundreds => exact (congrArg BitVec.toNat (hbyte (k := 0) (by decide))).trans hundreds
  case tens => exact (congrArg BitVec.toNat (hbyte (k := 1) (by decide))).trans tens
  case ones => exact (congrArg BitVec.toNat (hbyte (k := 2) (by decide))).trans ones
  case frame => exact State.onlyMem_writeBytes hmem (bs := bcdDigits (s.getV x)) hr _ _

/-- Settles O16: the bytes stored are the registers in their order, and the store moves no I. -/
theorem storeRegistersAtI : Obligations.StoreRegistersAtI := by
  intro x s hs hr
  have hmem := ((State.inv_iff s).1 hs).mem
  have hlen := s.regsUpTo_length x
  have hexec := exec_storeRegs hr
  obtain ⟨hlegacy, hextended⟩ :=
    i_advanceI_by_mode (s.writeBytes_i s.i.toNat (s.regsUpTo x)) (s.writeBytes_mode s.i.toNat (s.regsUpTo x)) hr
  refine ⟨_, hexec, fun k => readByte_of_storeRegs hmem hexec, hlegacy, hextended, by simp, ?frame⟩
  rw [State.advanceI_eq, ← hlen]
  exact State.onlyMem_writeBytes hmem (hlen ▸ hr) _ _

/-- Settles O17: the registers up to x take the bytes from I on, and the load moves no I. -/
theorem loadRegistersFromI : Obligations.LoadRegistersFromI := by
  intro x s hr
  obtain ⟨hlegacy, hextended⟩ :=
    i_advanceI_by_mode (s.loadRegsFrom_i s.i.toNat x) (s.loadRegsFrom_mode s.i.toNat x) hr
  refine ⟨_, exec_loadRegs hr, fun k hk => ?loaded, fun k hk => ?kept, hlegacy, hextended, by simp, ?frame⟩
  case loaded => simp [hk]
  case kept => simp [Fin.not_le.2 hk]
  case frame =>
    rw [State.advanceI_eq]
    exact keeps_all_but_regs_and_i rfl

end Sys2Proof.Machine

/-! SUPPORT. The statements about the random byte and the keypad: the masked byte, the skips on a key, and the wait for
one (44_random_keypad.md). -/

namespace Sys2Proof.Machine

/-! ## The key queries (R194) -/

theorem keyPressed_iff (inp : Inputs) (k : Key) : keyPressed inp k = true ↔ k ∈ inp.keys := List.contains_iff_mem

theorem not_keyPressed_iff (inp : Inputs) (k : Key) : (!keyPressed inp k) = true ↔ k ∉ inp.keys := by
  rw [Bool.not_eq_true', ← Bool.not_eq_true, keyPressed_iff]

/-- The key whose number is the low nibble of a byte. -/
theorem lowNibble_eq_of_val {b : Byte} {k : Key} (h : k.val = b.toNat % 16) : lowNibble b = k :=
  Fin.ext ((val_lowNibble b).trans h.symm)

theorem toNat_keyByte (k : Key) : (BitVec.ofNat 8 k.val).toNat = k.val := toNat_ofNat_fits (by omega)

/-! ## The wait for a key (R193) -/

theorem State.takeKey_of_noKey {s : State} (h : s.inputs.keys = []) (x : Reg) : s.takeKey x = s := by
  rw [State.takeKey, h]

theorem State.takeKey_of_key {s : State} {k : Key} {ks : List Key} (h : s.inputs.keys = k :: ks) (x : Reg) :
    s.takeKey x = s.writeResult x (BitVec.ofNat 8 k.val) := by
  rw [State.takeKey, h]
  rfl

theorem State.onlyRegs_takeKey (s : State) (x : Reg) : OnlyRegs [x] s (s.takeKey x) := by
  cases h : s.inputs.keys with
  | nil =>
    rw [State.takeKey_of_noKey h]
    exact onlyRegs_of_eq rfl fun _ _ => rfl
  | cons k ks =>
    rw [State.takeKey_of_key h]
    exact s.onlyRegs_writeResult x _

/-! ## The obligations -/

/-- Settles O31: one result written, whose bits the mask combines one by one with the environment's byte. -/
theorem randomByteIsMasked : Obligations.RandomByteIsMasked := by
  intro x nn s
  refine ⟨s.writeResult x (s.inputs.random &&& nn), rfl, fun k => ?bits, rfl, s.onlyRegs_writeResult x _⟩
  case bits => rw [State.getV_writeResult, BitVec.getLsbD_and]

/-- Settles O32: both are skips on the key that the low nibble names, on its being down and on its being up. -/
theorem keySkipsMovePc : Obligations.KeySkipsMovePc := by
  intro x k s hk
  obtain rfl := lowNibble_eq_of_val hk
  refine ⟨skip_movesPc rfl (keyPressed_iff s.inputs _), ?sknp⟩
  case sknp =>
    obtain ⟨t, hexec, hframe, hpc⟩ :=
      skip_movesPc (i := .sknp x) rfl (not_keyPressed_iff s.inputs (lowNibble (s.getV x)))
    exact ⟨t, hexec, hframe, hpc.trans (ite_not ..)⟩

/-- Settles O33: no key down leaves the state itself, and the first key down is one result written. -/
theorem waitKeyTakesAPressedKey : Obligations.WaitKeyTakesAPressedKey := by
  intro x s
  refine ⟨s.takeKey x, rfl, fun hnone => State.takeKey_of_noKey hnone x, fun hsome => ?taken, s.onlyRegs_takeKey x⟩
  case taken =>
    obtain ⟨k, ks, hkeys⟩ := List.exists_cons_of_ne_nil hsome
    rw [State.takeKey_of_key hkeys, State.getV_writeResult, hkeys]
    exact ⟨rfl, k, List.mem_cons_self, rfl, toNat_keyByte k⟩

end Sys2Proof.Machine

/-! SUPPORT. The statements about the timer access instructions: who writes the timers, and what a write of one timer
leaves (45_timer_instructions.md). -/

namespace Sys2Proof.Machine

/-! ## What a write of one timer is and leaves alone (R201, R202) -/

theorem exec_setDT (x : Reg) (s : State) : exec (.setDT x) s = .next (s.setDT (s.getV x)).advance := rfl

theorem exec_setST (x : Reg) (s : State) : exec (.setST x) s = .next (s.setST (s.getV x)).advance := rfl

theorem keeps_all_but_timers {s t : State} (h : t = { s with pc := t.pc, timers := t.timers }) :
    KeepsRegs [] s t ∧ t.i = s.i ∧ KeepsMem s t ∧ KeepsStack s t ∧ KeepsRest s t := by
  rw [h]
  exact ⟨fun _ _ => rfl, rfl, fun _ => rfl, ⟨rfl, rfl⟩, rfl, rfl, rfl, rfl, rfl, rfl, rfl, rfl, rfl, rfl⟩

/-! ## Who writes the timers (R203) -/

/-- Of the three instructions that access the timers, Fx07 alone does not set one: it reads DT into a register. -/
theorem keeps_timers_of_sets_none {i : Instr} {s t : State} (h : exec i s = .next t) (hdt : ∀ x, i ≠ .setDT x)
    (hst : ∀ x, i ≠ .setST x) : t.timers = s.timers := by
  cases i with
  | ldFromDT x =>
    obtain rfl := Host.Outcome.next.inj h
    rfl
  | setDT x => exact absurd rfl (hdt x)
  | setST x => exact absurd rfl (hst x)
  | _ => exact (exec_effect h).keeps_timers rfl

/-! ## The obligations -/

/-- Settles O41: each of the two that set a timer replaces one byte of the pair, and the others set none. -/
theorem timersChangeOnlyWhereNamed : Obligations.TimersChangeOnlyWhereNamed := by
  intro i s t h
  refine ⟨keeps_timers_of_sets_none h, ?setDT, ?setST⟩
  case setDT =>
    rintro x rfl
    obtain rfl := Host.Outcome.next.inj ((exec_setDT x s).symm.trans h)
    rfl
  case setST =>
    rintro x rfl
    obtain rfl := Host.Outcome.next.inj ((exec_setST x s).symm.trans h)
    rfl

/-- Settles O34: the read is one result written to `V[x]`, the write replaces DT alone, and neither looks at the
engine's state. -/
theorem delayTimerReadAndSet : Obligations.DelayTimerReadAndSet := fun x s =>
  ⟨⟨s.writeResult x s.timers.dt, rfl, s.getV_writeResult x _, rfl, s.onlyRegs_writeResult x _⟩,
    ⟨_, exec_setDT x s, rfl, rfl, rfl, keeps_all_but_timers rfl⟩⟩

/-- Settles O35: the write replaces ST alone and does not look at the engine's state. -/
theorem soundTimerSet : Obligations.SoundTimerSet := fun x s =>
  ⟨_, exec_setST x s, rfl, rfl, rfl, keeps_all_but_timers rfl⟩

end Sys2Proof.Machine

/-! SUPPORT. The statements about the host's commands and the serializer: the commands that write one field, what a ROM
leaves in memory, the save buffer's layout, and that `save` and `restore` are inverse (46_host_commands.md). -/

namespace Sys2Proof.Machine

/-! ## `signal` and `loadROM` (R221, R214) -/

/-- A signal joins the queue of an open channel; a closed one takes none. -/
theorem State.sendSignal_eq (s : State) (sig : Signal) :
    s.sendSignal sig = { s with timers :=
      { s.timers with queue := if s.timers.closed then s.timers.queue else s.timers.queue ++ [sig] } } := by
  unfold State.sendSignal
  split <;> rfl

theorem State.loadROM_of_fits (s : State) {bytes : List Byte} (h : bytes.length ≤ 3584) :
    s.loadROM bytes = (s.writeBytes 0x200 bytes).answer .proceed := if_pos h

theorem State.loadROM_of_too_long (s : State) {bytes : List Byte} (h : 3584 < bytes.length) :
    s.loadROM bytes = s.answer .refused := if_neg (Nat.not_le_of_lt h)

/-- The stored bytes are read back in their order. -/
theorem State.readByte_writeBytes_stored {s : State} (hs : s.memOk) {a k : Nat} {bs : List Byte}
    (hr : rangeInMemory a bs.length = true) (hk : k < bs.length) : (s.writeBytes a bs).readByte (a + k) = bs[k] := by
  rw [State.readByte_writeBytes_inRange hs hr, if_pos (by omega), Nat.add_sub_cancel_left]
  exact (List.getElem_eq_getD 0).symm

/-! ## Reading fields of a buffer -/

theorem bufferByte_of_getElem? {buf : List Byte} {k : Nat} {b : Byte} (h : buf[k]? = some b) :
    bufferByte buf k = b := by
  rw [bufferByte, List.getD_eq_getElem?_getD, h, Option.getD_some]

/-- A word lies at an offset of a buffer, low byte first. -/
def WordAt (buf : List Byte) (k : Nat) (w : Word) : Prop :=
  buf[k]? = some (lowByte w) ∧ buf[k + 1]? = some (highByte w)

theorem WordAt.bufferWord_eq {buf : List Byte} {k : Nat} {w : Word} (h : WordAt buf k w) : bufferWord buf k = w := by
  obtain ⟨hlow, hhigh⟩ := h
  rw [bufferWord, bufferByte_of_getElem? hlow, bufferByte_of_getElem? hhigh, wordOfBytes_high_low]

theorem modeTag_cases (m : Mode) : modeTag m = 0 ∨ modeTag m = 1 := by
  cases m with
  | legacy => exact .inl rfl
  | extended => exact .inr rfl

/-- The tag a mode is saved as is restored as that mode. -/
theorem mode_of_modeTag (m : Mode) : (if modeTag m = 0 then Mode.legacy else .extended) = m := by
  cases m <;> rfl

/-! ## The buffer `save` returns (R216) -/

/-- Where each field of a state lies in a save buffer. -/
structure SaveLayout (s : State) (b : List Byte) : Prop where
  length : b.length = 4184 + s.cfg.dispLen
  memory : ∀ a, a < 4096 → b[a]? = some (s.readByte a)
  pc     : WordAt b 4096 s.pc
  i      : WordAt b 4098 s.i
  reg    : ∀ r : Reg, b[4100 + r.val]? = some (s.getV r)
  slot   : ∀ k, k < 32 → WordAt b (4116 + 2 * k) (s.slot k)
  sp     : b[4180]? = some (BitVec.ofNat 8 s.sp)
  mode   : b[4181]? = some (modeTag s.mode)
  dt     : b[4182]? = some s.timers.dt
  st     : b[4183]? = some s.timers.st
  persistent : b.drop 4184 = s.persistentFields

/-- The machine-state part of the buffer, at its offsets in the whole. -/
theorem State.saveImage_field {s : State} {a k : Nat} {b : Byte} (hk : 4096 + a = k) (h : s.saveFields[a]? = some b)
    (l : List Byte) : (s.saveImage ++ l)[k]? = some b := by
  have hlt := (List.getElem?_eq_some_iff.1 h).1
  rw [s.saveFields_length] at hlt
  rw [← hk, s.saveImage_fields a hlt, h]

/-- The buffer `save` returns has the layout. -/
theorem State.saveLayout (s : State) : SaveLayout s (s.saveImage ++ s.persistentFields) := by
  obtain ⟨hpcLow, hpcHigh, hiLow, hiHigh, hreg, hslot, hsp, hmode, hdt, hst⟩ := s.saveFields_getElem
  exact {
    length := by rw [List.length_append, s.saveImage_length, State.persistentFields, exactBytes_length]
    memory := fun a ha => s.saveImage_memory a ha _
    pc := ⟨State.saveImage_field rfl hpcLow _, State.saveImage_field rfl hpcHigh _⟩
    i := ⟨State.saveImage_field rfl hiLow _, State.saveImage_field rfl hiHigh _⟩
    reg := fun r => State.saveImage_field (by omega) (hreg r) _
    slot := fun k hk => by
      obtain ⟨hlow, hhigh⟩ := hslot k hk
      exact ⟨State.saveImage_field (by omega) hlow _, State.saveImage_field (by omega) hhigh _⟩
    sp := State.saveImage_field rfl hsp _
    mode := State.saveImage_field rfl hmode _
    dt := State.saveImage_field rfl hdt _
    st := State.saveImage_field rfl hst _
    persistent := List.drop_left' s.saveImage_length }

/-- A depth the invariant admits fits the byte it is saved in. -/
theorem State.Good.toNat_savedDepth {s : State} (h : s.Good) : (BitVec.ofNat 8 s.sp).toNat = s.sp :=
  toNat_ofNat_fits (h.sp.trans_lt (by decide))

/-- A surface of DISP_LEN bytes is saved as it is. -/
theorem State.Good.persistentFields_eq {s : State} (h : s.Good) : s.persistentFields = s.surface := by
  rw [State.persistentFields, exactBytes_of_le _ _ h.surface.ge, List.take_of_length_le h.surface.le]

/-! ## Control state and display after the writes of `restore` (R218) -/

@[simp] theorem State.restoreFields_fatal (r : State) (buf : List Byte) : (r.restoreFields buf).fatal = r.fatal := by
  simp [State.restoreFields]

@[simp] theorem State.restoreFields_cfg (r : State) (buf : List Byte) : (r.restoreFields buf).cfg = r.cfg := by
  simp [State.restoreFields]

@[simp] theorem State.restoreFields_agenda (r : State) (buf : List Byte) : (r.restoreFields buf).agenda = r.agenda := by
  simp [State.restoreFields]

@[simp] theorem State.restoreFields_timers (r : State) (buf : List Byte) :
    (r.restoreFields buf).timers = { r.timers with dt := bufferByte buf 4182, st := bufferByte buf 4183 } := by
  simp [State.restoreFields]

@[simp] theorem State.persistentFields_restoreFields (r : State) (buf : List Byte) :
    (r.restoreFields buf).persistentFields = exactBytes r.cfg.dispLen (buf.drop 4184) :=
  (r.restoreCore buf).persistentFields_restore _

/-! ## Which buffers `restore` accepts, and what it makes of them (R218, R219) -/

/-- A `restore` of a refused buffer ends in Fatal and makes none of its writes. -/
theorem step_restore_refused (s : State) (rest : List Event) (buf : List Byte) (hf : s.fatal = false)
    (ha : s.agenda = .command (.restore buf) :: rest) (hb : ¬ bufferAccepted s.cfg buf = true) :
    step s = .next { s with agenda := rest, fatal := true, reply := .none } := by
  rw [step_command s rest _ ha hf]
  exact congrArg Host.Outcome.next (if_neg hb)

/-- A buffer laid out from a state that meets the invariant is accepted. -/
theorem SaveLayout.accepted {s : State} {b : List Byte} (h : SaveLayout s b) (hs : s.Good) :
    bufferAccepted s.cfg b = true := by
  refine (bufferAccepted_iff _ _).2 ⟨h.length.ge, ?tag, ?depth⟩
  case tag =>
    rw [bufferByte_of_getElem? h.mode]
    exact modeTag_cases s.mode
  case depth =>
    rw [bufferByte_of_getElem? h.sp, hs.toNat_savedDepth]
    exact hs.sp

/-- Canonical memory is made again from its bytes in the buffer. -/
theorem SaveLayout.ofBytes_eq {s : State} {b : List Byte} (h : SaveLayout s b) (hs : s.memOk) :
    Memory.ofBytes (powerOnByte s.cfg) (bufferByte b) = s.mem := by
  refine Memory.ext_read _ _ _ (Memory.wf_ofBytes _ _) hs fun a ha => ?_
  rw [Memory.read_ofBytes _ _ a ha, bufferByte_of_getElem? (h.memory a ha), State.readByte]

theorem SaveLayout.regs_eq {s : State} {b : List Byte} (h : SaveLayout s b) :
    (Vector.ofFn fun k : Reg => bufferByte b (4100 + k.val)) = s.v := by
  refine Vector.ext fun k hk => ?_
  rw [Vector.getElem_ofFn]
  exact bufferByte_of_getElem? (h.reg ⟨k, hk⟩)

theorem SaveLayout.stack_eq {s : State} {b : List Byte} (h : SaveLayout s b) :
    (Vector.ofFn fun k : Fin 32 => bufferWord b (4116 + 2 * k.val)) = s.stack := by
  refine Vector.ext fun k hk => ?_
  rw [Vector.getElem_ofFn, (h.slot k hk).bufferWord_eq, State.slot, Vector.getElem?_eq_getElem hk, Option.getD_some]

/-- Restoring a buffer laid out from a state gives back all it holds of that state (R220). -/
theorem SaveLayout.restoreFields_eq {s r : State} {b : List Byte} (h : SaveLayout s b) (hs : s.Good)
    (hcfg : r.cfg = s.cfg) :
    (r.restoreFields b).mem = s.mem ∧ (r.restoreFields b).pc = s.pc ∧ (r.restoreFields b).i = s.i ∧
    (r.restoreFields b).v = s.v ∧ (r.restoreFields b).stack = s.stack ∧ (r.restoreFields b).sp = s.sp ∧
    (r.restoreFields b).mode = s.mode ∧
    (r.restoreFields b).timers = { r.timers with dt := s.timers.dt, st := s.timers.st } ∧
    (r.restoreFields b).persistentFields = s.persistentFields := by
  obtain ⟨rMem, rPc, rI, rV, rStack, rSp, rMode, rTimers, -, -, -, rFields⟩ := r.restoreFields_spec b
  rw [rMem, rPc, rI, rV, rStack, rSp, rMode, rTimers, rFields, hcfg, bufferByte_of_getElem? h.sp,
    bufferByte_of_getElem? h.mode, bufferByte_of_getElem? h.dt, bufferByte_of_getElem? h.st, h.persistent]
  exact ⟨h.ofBytes_eq hs.mem, h.pc.bufferWord_eq, h.i.bufferWord_eq, h.regs_eq, h.stack_eq, hs.toNat_savedDepth,
    mode_of_modeTag s.mode, rfl, exactBytes_exactBytes _ _⟩

/-- What `save` returns after an accepted `restore` is the buffer, up to PAYLOAD (R220). -/
theorem State.saved_restoreFields (r : State) (buf : List Byte) (hb : bufferAccepted r.cfg buf = true) :
    (r.restoreFields buf).saveImage ++ (r.restoreFields buf).persistentFields =
      buf.take (4184 + r.cfg.dispLen) := by
  obtain ⟨hlen, -, -⟩ := (bufferAccepted_iff _ _).1 hb
  have hrest : r.cfg.dispLen ≤ (buf.drop 4184).length := by
    rw [List.length_drop]
    omega
  rw [r.saveImage_restoreFields buf hb, r.persistentFields_restoreFields, exactBytes_of_le _ _ hrest, List.take_add]

/-- A `save` right after an accepted `restore` ends in Continue and answers the buffer, up to PAYLOAD. -/
theorem step_save_restored (r : State) (buf : List Byte) (rest : List Event) (hc : r.cfg.wf = true)
    (hf : r.fatal = false) (ha : r.agenda = .command .save :: rest) (hb : bufferAccepted r.cfg buf = true) :
    step ((r.restoreFields buf).answer .proceed) = .next
      { r.restoreFields buf with agenda := rest, reply := .saved (buf.take (4184 + r.cfg.dispLen)) } := by
  rw [step_save _ rest (by simpa using hc) (by simpa using hf) (by simpa using ha), ← r.saved_restoreFields buf hb]
  rfl

/-! ## The obligations -/

/-- Settles O55: each command is an update of one field; a signal's is guarded by the channel being open. -/
theorem simpleCommandsWriteOneField : Obligations.SimpleCommandsWriteOneField := by
  intro s rest c hf ha
  have hstep := step_command s rest c ha hf
  refine ⟨?setProgramCounter, ?setMode, ?signal, ?disconnect⟩
  case signal =>
    rintro sig rfl
    exact hstep.trans (congrArg (fun u => Host.Outcome.next (State.answer u .proceed)) (State.sendSignal_eq _ sig))
  case setProgramCounter =>
    rintro addr rfl
    exact hstep
  case setMode =>
    rintro m rfl
    exact hstep
  case disconnect =>
    rintro rfl
    exact hstep

/-- Settles O57: a ROM that fits is a store inside memory, and one that does not is refused before any. -/
theorem loadRomStoresFromOrigin : Obligations.LoadRomStoresFromOrigin := by
  intro s rest bytes hs hf ha
  rw [step_command s rest _ ha hf]
  refine ⟨fun hfits => ?stored, fun hlong => congrArg Host.Outcome.next (State.loadROM_of_too_long _ hlong)⟩
  case stored =>
    have hmem : State.memOk { s with agenda := rest } := ((State.inv_iff s).1 hs).mem
    have hr : rangeInMemory 0x200 bytes.length = true := (rangeInMemory_iff _ _).2 (.inr (by omega))
    refine ⟨_, congrArg Host.Outcome.next (State.loadROM_of_fits _ hfits), fun k hk => ?_, fun a houtside => ?_, ?_⟩
    · rw [State.readByte_answer, State.readByte_writeBytes_stored hmem hr hk]
    · rw [State.readByte_answer, State.keepsMemOutside_writeBytes hmem hr a houtside]
      rfl
    · exact congrArg (State.answer · .proceed) (State.writeBytes_eq _ 0x200 bytes)

/-- Settles O58: the buffer's layout, where the invariant says that the depth fits a byte and that the surface holds
DISP_LEN bytes. -/
theorem saveBufferLayout : Obligations.SaveBufferLayout := by
  intro s rest hs hf ha
  have hgood := (State.inv_iff s).1 hs
  have hb := s.saveLayout
  obtain ⟨hpcLow, hpcHigh⟩ := hb.pc
  obtain ⟨hiLow, hiHigh⟩ := hb.i
  refine ⟨_, step_save s rest hgood.cfg hf ha, hb.length, hb.memory, hpcLow, hpcHigh, hiLow, hiHigh, hb.reg, ?slots,
    ⟨_, hb.sp, hgood.toNat_savedDepth⟩, ?mode, hb.dt, hb.st, fun k _ => ?persistent⟩
  case slots =>
    intro k hk
    obtain ⟨hlow, hhigh⟩ := hb.slot k hk
    exact ⟨hlow, by rwa [Nat.add_right_comm] at hhigh⟩
  case mode =>
    rw [hb.mode]
    cases s.mode <;> rfl
  case persistent => rw [← List.getElem?_drop, hb.persistent, hgood.persistentFields_eq]

/-- Settles O59: each of the three faults of a buffer fails one of the checks, which precede all writes. -/
theorem malformedRestoreIsFatal : Obligations.MalformedRestoreIsFatal := by
  intro s rest buf hf ha hbad
  refine step_restore_refused s rest buf hf ha fun hacc => ?_
  obtain ⟨hlen, htag, hdepth⟩ := (bufferAccepted_iff _ _).1 hacc
  obtain hshort | ⟨b, hb, h0, h1⟩ | ⟨b, hb, hdeep⟩ := hbad
  · exact absurd hlen (Nat.not_le_of_lt hshort)
  · rw [bufferByte_of_getElem? hb] at htag
    exact htag.elim h0 h1
  · rw [bufferByte_of_getElem? hb] at hdepth
    exact absurd hdepth (Nat.not_le_of_lt hdeep)

/-- Settles O60: what `save` lays out `restore` reads from the same offsets, and after any accepted `restore` each byte
`save` lays out is the buffer's. -/
theorem saveThenRestoreRoundTrips : Obligations.SaveThenRestoreRoundTrips := by
  refine ⟨?ofSaved, ?ofAccepted⟩
  case ofSaved =>
    intro s t b rest hs hf ha hstep hreply r rest' hcfg hrf hra
    have hgood := (State.inv_iff s).1 hs
    rw [step_save s rest hgood.cfg hf ha] at hstep
    obtain rfl := Host.Outcome.next.inj hstep
    obtain rfl := Reply.saved.inj hreply
    have hacc : bufferAccepted r.cfg _ = true := hcfg ▸ s.saveLayout.accepted hgood
    refine ⟨_, step_restore r rest' _ hrf hra hacc, ?_, s.saveLayout.restoreFields_eq hgood hcfg⟩
    rwa [State.answer_fatal, State.restoreFields_fatal]
  case ofAccepted =>
    intro r buf rest hcfg hf ha hlen htag ⟨d, hd, hdepth⟩
    have hacc : bufferAccepted r.cfg buf = true := (bufferAccepted_iff _ _).2
      ⟨hlen, htag.imp bufferByte_of_getElem? bufferByte_of_getElem?, by rwa [bufferByte_of_getElem? hd]⟩
    refine ⟨_, _, step_restore r _ buf hf ha hacc, ?fatal, ?timers,
      step_save_restored _ buf rest hcfg hf rfl hacc, rfl⟩
    case fatal => rwa [State.answer_fatal, State.restoreFields_fatal]
    case timers => rw [State.answer_timers, State.restoreFields_timers]

end Sys2Proof.Machine

/-! SUPPORT. The statements about failures, Fatal and the timer engine: how a step frame fails and that it fails again,
which instructions set FATAL, what one Tick does, what many do, and where a free run comes to its next Tick
(60_exceptions.md). -/

namespace Sys2Proof.Machine

/-! ## The fatal exception of an instruction (R244, R245) -/

/-- A call with no slot left, or a return with no address held. -/
def StackExhausted (i : Instr) (s : State) : Prop :=
  ((∃ nnn, i = .call nnn) ∧ 32 ≤ s.sp) ∨ (i = .ret ∧ s.sp = 0)

theorem exec_of_stackExhausted {i : Instr} {s : State} (h : StackExhausted i s) : exec i s = .next s.setFatal := by
  obtain ⟨⟨nnn, rfl⟩, hfull⟩ | ⟨rfl, hempty⟩ := h
  · exact if_neg (Nat.not_lt_of_le hfull)
  · exact if_pos hempty

/-- Short of exhaustion an instruction leaves FATAL alone. -/
theorem exec_keeps_fatal {i : Instr} {s t : State} (h : exec i s = .next t) (hx : ¬ StackExhausted i s) :
    t.fatal = s.fatal :=
  (exec_effect h).keeps_fatal (fun nnn hi => Nat.lt_of_not_le fun hfull => hx (.inl ⟨⟨nnn, hi⟩, hfull⟩))
    fun hi => Nat.pos_of_ne_zero fun hempty => hx (.inr ⟨hi, hempty⟩)

/-! ## How a step fails (R241 to R243, R249) -/

/-- The failures of a step frame, in the order of its checks: the fetch, the decoding, the instruction's own range. -/
inductive FrameFails (s : State) : Fault → Prop
  | fetchBound (hp : 0x0FFE < s.pc.toNat) : FrameFails s .fetchBound
  | decodeFailure (hp : s.pc.toNat ≤ 0x0FFE) (hd : decode s.fetchWord = .error .illegalWord) :
      FrameFails s .decodeFailure
  | memoryBound {i : Instr} (hp : s.pc.toNat ≤ 0x0FFE) (hd : decode s.fetchWord = .ok i)
      (hr : ¬ rangeInMemory s.i.toNat (accessedBytes i) = true) : FrameFails s .memoryBound

theorem FrameFails.interpret_eq {s : State} {c : Fault} (h : FrameFails s c) : interpret s = .fault c := by
  cases h with
  | fetchBound hp => exact if_pos hp
  | decodeFailure hp hd =>
    rw [interpret, if_neg (Nat.not_lt_of_le hp), hd]
    rfl
  | memoryBound hp hd hr =>
    rw [interpret_of_decode s _ hp hd]
    exact (exec_fault_iff _ s _).2 ⟨rfl, hr⟩

theorem frameFails_of_interpret {s : State} {c : Fault} (h : interpret s = .fault c) : FrameFails s c := by
  unfold interpret at h
  split at h
  case isTrue hp =>
    obtain rfl := Host.Outcome.fault.inj h
    exact .fetchBound hp
  case isFalse hp =>
    have hp := Nat.le_of_not_lt hp
    split at h
    case h_1 i hd =>
      obtain ⟨rfl, hr⟩ := (exec_fault_iff i s c).1 h
      exact .memoryBound hp hd hr
    case h_2 e hd =>
      obtain rfl := Host.Outcome.fault.inj h
      obtain rfl := decode_error hd
      exact .decodeFailure hp hd

/-- Whether and why a step fails is settled by PC, I and memory. -/
theorem FrameFails.congr {s t : State} {c : Fault} (h : FrameFails s c) (hpc : t.pc = s.pc) (hi : t.i = s.i)
    (hmem : t.mem = s.mem) (hcfg : t.cfg = s.cfg) : FrameFails t c := by
  have hfetch := State.fetchWord_congr s t hpc hmem hcfg
  cases h with
  | fetchBound hp => exact .fetchBound (hpc ▸ hp)
  | decodeFailure hp hd => exact .decodeFailure (hpc ▸ hp) (hfetch ▸ hd)
  | memoryBound hp hd hr => exact .memoryBound (hpc ▸ hp) (hfetch ▸ hd) (hi ▸ hr)

theorem FrameFails.ne_fatalLatched {s : State} {c : Fault} (h : FrameFails s c) : c ≠ .fatalLatched := by
  cases h <;> nofun

theorem ite_ne_refused {p : Prop} [Decidable p] {a b : Result} {r : Refusal} (ha : a ≠ .refused r)
    (hb : b ≠ .refused r) : (if p then a else b) ≠ .refused r := by
  split
  · exact ha
  · exact hb

/-- Every instruction has a meaning. -/
theorem exec_ne_refused (i : Instr) (s : State) (r : Refusal) : exec i s ≠ .refused r := by
  cases i with
  | call | ret | drw | bcd | storeRegs | loadRegs => exact ite_ne_refused nofun nofun
  | _ => nofun

theorem interpret_ne_refused (s : State) (r : Refusal) : interpret s ≠ .refused r := by
  unfold interpret
  refine ite_ne_refused nofun ?_
  split
  · exact exec_ne_refused _ s r
  · nofun

theorem State.taken_fatal (s : State) : s.taken.fatal = s.fatal := by rw [State.taken_eq]

/-- With FATAL clear the event that failed was a step, and its frame is what failed. -/
theorem frameFails_of_step {s : State} {c : Fault} (hf : s.fatal = false) (h : step s = .fault c) :
    ∃ inp, s.nextEvent = .step inp ∧ FrameFails (s.taken.beginStep inp) c := by
  rw [step_eq s (.inl hf)] at h
  have hft : s.taken.fatal = false := s.taken_fatal.trans hf
  cases he : s.nextEvent with
  | step inp =>
    rw [he] at h
    exact ⟨inp, rfl, frameFails_of_interpret ((unlessFatal_of_clear _ _ hft).symm.trans h)⟩
  | tick | powerOn =>
    rw [he] at h
    cases h
  | command | surface =>
    rw [he] at h
    cases (unlessFatal_of_clear _ _ hft).symm.trans h

theorem State.taken_of_freeStep {s : State} (ha : s.agenda = []) (hu : s.untilTick ≠ 0) :
    s.taken = { s with draws := s.draws + 1, untilTick := s.untilTick - 1 } := by
  simp [State.taken, ha, hu]

/-- In a free run a step comes only while no Tick is due. -/
theorem State.untilTick_ne_zero {s : State} {inp : Inputs} (ha : s.agenda = []) (he : s.nextEvent = .step inp) :
    s.untilTick ≠ 0 := by
  intro hu
  simp [State.nextEvent, ha, hu] at he

/-! ## Many Ticks are Ticks of the timer engine -/

theorem ticks_timers (n : Nat) {s : State} (hf : s.fatal = false) :
    (ticks n s).timers = Timers.tick^[n] s.timers := by
  induction n generalizing s with
  | zero => rfl
  | succ n ih => rw [ticks, ih (by simpa using hf), s.tick_of_clear hf, Function.iterate_succ_apply]

theorem ticks_of_tick_eq_self (n : Nat) {s : State} (h : s.tick = s) : ticks n s = s := by
  induction n with
  | zero => rfl
  | succ n ih => rw [ticks, h, ih]

/-- A `step` commanded after any number of Ticks fails as its frame did before them. -/
theorem FrameFails.step_after_ticks {s : State} {c : Fault} (h : FrameFails s c) (hf : s.fatal = false) (n : Nat)
    (inp : Inputs) (rest : List Event) : step { ticks n s with agenda := .step inp :: rest } = .fault c := by
  rw [ticks_keep]
  refine (step_commanded _ rest inp rfl ?clear).trans (FrameFails.interpret_eq (h.congr rfl rfl rfl rfl))
  case clear => exact hf

/-! ## One Tick of the timer engine (R256) -/

section
variable {t : Timers}

theorem Timers.tick_of_exited (he : t.exited = true) : t.tick = t := if_pos he

theorem Timers.tick_of_exit {q : List Signal} (he : t.exited = false) (hq : t.queue = .exit :: q) :
    t.tick = { t with exited := true, queue := q } := by
  simp [Timers.tick, he, hq, Timers.obey]

theorem Timers.tick_of_closed (he : t.exited = false) (hq : t.queue = []) (hc : t.closed = true) :
    t.tick = { t with exited := true } := by
  simp [Timers.tick, he, hq, hc]

/-- T_PAUSED after a signal is consumed (R257). -/
def pausedAfter (p : Bool) : Signal → Bool
  | .pause => true
  | .resume => false
  | .exit | .unknown => p

/-- The timer engine after the signal part of a Tick: the oldest signal, if any, is off the queue and obeyed. -/
def Timers.dequeued (t : Timers) : Timers :=
  { t with queue := t.queue.tail, paused := t.queue.head?.elim t.paused (pausedAfter t.paused) }

/-- A Tick that does not end the engine takes one signal off the queue, then counts down. -/
theorem Timers.tick_of_stays (he : t.exited = false) (hx : ∀ q, t.queue ≠ .exit :: q)
    (ho : t.queue ≠ [] ∨ t.closed = false) : t.tick = t.dequeued.decay := by
  cases hq : t.queue with
  | nil =>
    have hc : t.closed = false := ho.resolve_left (absurd hq)
    have hsame : t.dequeued = t := by
      rw [Timers.dequeued, hq]
      exact congrArg (fun q => { t with queue := q }) hq.symm
    simp [hsame, Timers.tick, he, hq, hc]
  | cons sig q =>
    cases sig with
    | exit => exact absurd hq (hx q)
    | pause | resume | unknown => simp [Timers.tick, he, hq, Timers.obey, Timers.dequeued, pausedAfter]

/-- The count-down leaves the control state alone. -/
theorem Timers.decay_keep (t : Timers) : t.decay = { t with dt := t.decay.dt, st := t.decay.st } := by
  unfold Timers.decay
  split <;> rfl

theorem Timers.decay_toNat (t : Timers) :
    t.decay.dt.toNat = t.dt.toNat - (if t.decay.paused then 0 else 1) ∧
      t.decay.st.toNat = t.st.toNat - (if t.decay.paused then 0 else 1) := by
  cases hp : t.paused <;> simp [Timers.decay, hp]

end

/-! ## Many Ticks of the timer engine -/

/-- A running engine with nothing to consume. -/
structure Timers.Idle (t : Timers) : Prop where
  paused : t.paused = false
  exited : t.exited = false
  closed : t.closed = false
  queue  : t.queue = []

theorem Timers.Idle.tick_eq {t : Timers} (h : t.Idle) :
    t.tick = { t with dt := countDown t.dt, st := countDown t.st } := by
  simp [Timers.tick, h.exited, h.queue, h.closed, Timers.decay, h.paused]

/-- `n` Ticks of an idle engine take `n` off both timers and change nothing else. -/
theorem Timers.Idle.iterate_tick {t : Timers} (h : t.Idle) (n : Nat) :
    (Timers.tick^[n] t).dt.toNat = t.dt.toNat - n ∧ (Timers.tick^[n] t).st.toNat = t.st.toNat - n ∧
      Timers.tick^[n] t = { t with dt := (Timers.tick^[n] t).dt, st := (Timers.tick^[n] t).st } := by
  induction n generalizing t with
  | zero => exact ⟨rfl, rfl, rfl⟩
  | succ n ih =>
    have hidle : t.tick.Idle := by
      rw [h.tick_eq]
      exact ⟨h.paused, h.exited, h.closed, h.queue⟩
    obtain ⟨hdt, hst, hkeep⟩ := ih hidle
    rw [Function.iterate_succ_apply]
    refine ⟨?dt, ?st, hkeep.trans ?keep⟩
    case dt =>
      rw [hdt, h.tick_eq, countDown_toNat]
      omega
    case st =>
      rw [hst, h.tick_eq, countDown_toNat]
      omega
    case keep => rw [h.tick_eq]

/-- A queue of `k` signals without Exit is empty after `k` Ticks, each signal obeyed in its turn. -/
theorem Timers.iterate_tick_signals (sigs : List Signal) {t : Timers} (he : t.exited = false) (hq : t.queue = sigs)
    (hx : Signal.exit ∉ sigs) :
    (Timers.tick^[sigs.length] t).queue = [] ∧ (Timers.tick^[sigs.length] t).exited = false ∧
      (Timers.tick^[sigs.length] t).closed = t.closed ∧
      (Timers.tick^[sigs.length] t).paused = sigs.foldl pausedAfter t.paused := by
  induction sigs generalizing t with
  | nil => exact ⟨hq, he, rfl, rfl⟩
  | cons sig sigs ih =>
    obtain ⟨hsig, hx⟩ := List.ne_and_not_mem_of_not_mem_cons hx
    have hhead (q : List Signal) : t.queue ≠ .exit :: q := fun h => hsig (List.cons.inj (h.symm.trans hq)).1
    have hnonempty : t.queue ≠ [] := by simp [hq]
    have htick := (Timers.tick_of_stays he hhead (.inl hnonempty)).trans (Timers.decay_keep _)
    have hrest := ih (t := t.tick) (by rw [htick]; exact he) (by rw [htick]; exact congrArg List.tail hq) hx
    rw [List.length_cons, Function.iterate_succ_apply, List.foldl_cons]
    simpa [htick, Timers.dequeued, hq] using hrest

/-! ## A free run comes to its next Tick (R260) -/

/-- One event of a free run before the Tick is due, failed or not, leaves the run free and one event nearer to it. -/
theorem driven_freeStep {s : State} (ha : s.agenda = []) (hf : s.fatal = false) (hu : s.untilTick ≠ 0) :
    (driven s).agenda = [] ∧ (driven s).untilTick = s.untilTick - 1 := by
  have hstep := step_free s ha hf (Nat.pos_of_ne_zero hu)
  cases h : step s with
  | next t =>
    obtain ⟨i, heffect⟩ := interpret_effect (hstep.symm.trans h)
    obtain ⟨-, -, -, hagenda, -, huntil, -⟩ := heffect.keeps_environment
    rw [driven_of_next s t h]
    exact ⟨hagenda.trans ha, huntil⟩
  | fault c =>
    have hfail := frameFails_of_interpret (hstep.symm.trans h)
    rw [driven_of_fault s c h hfail.ne_fatalLatched, State.afterFail, State.taken_of_freeStep ha hu]
    exact ⟨ha, rfl⟩
  | refused r => exact absurd (hstep.symm.trans h) (interpret_ne_refused _ r)

theorem drive_stopped (k : Nat) {s : State} (ha : s.agenda = []) (hf : s.fatal = true) : drive k s = s := by
  induction k with
  | zero => rfl
  | succ k ih => rw [drive, driven_of_stopped s (step_stopped s ha hf), ih]

/-- A free run that no event made fatal is still free when its Tick is due. -/
theorem drive_untilTick (k : Nat) {s : State} (ha : s.agenda = []) (hk : s.untilTick = k)
    (hf : (drive k s).fatal = false) : (drive k s).agenda = [] ∧ (drive k s).untilTick = 0 := by
  induction k generalizing s with
  | zero => exact ⟨ha, hk⟩
  | succ k ih =>
    cases hfs : s.fatal with
    | true =>
      rw [drive_stopped _ ha hfs, hfs] at hf
      cases hf
    | false =>
      obtain ⟨hagenda, huntil⟩ := driven_freeStep ha hfs (by omega)
      exact ih hagenda (by omega) hf

/-- The Tick of a free run draws how many events come before the next one. -/
theorem step_dueTick {s : State} (ha : s.agenda = []) (hf : s.fatal = false) (hu : s.untilTick = 0) :
    step s = .next
      { s with timers := s.timers.tick, draws := s.draws + 1, untilTick := Config.freeGap s.draws } := by
  rw [step_freeTick s ha hf hu]
  exact congrArg Host.Outcome.next (State.tick_of_clear _ hf)

/-! ## The obligations -/

/-- Settles O43: an instruction sets FATAL where it exhausts the stack, and leaves it alone elsewhere. -/
theorem onlyStackExhaustionSetsFatal : Obligations.OnlyStackExhaustionSetsFatal := by
  intro i s t h
  change t.fatal = true ↔ s.fatal = true ∨ StackExhausted i s
  by_cases hx : StackExhausted i s
  · obtain rfl := Host.Outcome.next.inj ((exec_of_stackExhausted hx).symm.trans h)
    exact iff_of_true rfl (.inr hx)
  · rw [exec_keeps_fatal h hx, or_iff_left hx]

/-- Settles O47: the failure depends on PC, I and memory alone, and none of them is changed by the Fail, the Ticks or
the answers of the environment. -/
theorem failedStepChangesNothingAndRecurs : Obligations.FailedStepChangesNothingAndRecurs := by
  intro s c hf h
  obtain ⟨inp₀, he, hfail⟩ := frameFails_of_step hf h
  rw [driven_of_fault s c h hfail.ne_fatalLatched, State.afterFail]
  refine ⟨fun e rest ha => ?event, fun ha => ?free, fun n inp rest => ?again⟩
  case event =>
    rw [s.taken_of_agenda rest e ha]
    rfl
  case free =>
    rw [State.taken_of_freeStep ha (State.untilTick_ne_zero ha he)]
    rfl
  case again =>
    have hpast : FrameFails (s.taken.answer .decodeFailure) c := hfail.congr rfl rfl rfl rfl
    exact hpast.step_after_ticks (s.taken_fatal.trans hf) n inp rest

/-- Settles O53: the engine is idle and stays so; and a driver of a free run that goes on after each Fail comes to the
Tick that is due. -/
theorem timersDecayToZero : Obligations.TimersDecayToZero := by
  refine ⟨?decay, ?freeRun⟩
  case decay =>
    intro n s hf hp he hc hq
    have hidle : s.timers.Idle := ⟨hp, he, hc, hq⟩
    obtain ⟨hdt, hst, hkeep⟩ := hidle.iterate_tick n
    rw [← ticks_timers n hf] at hdt hst hkeep
    refine ⟨hdt, hst, (ticks_keep n s).trans ?_⟩
    exact congrArg s.withTimers hkeep
  case freeRun =>
    intro s u ha hu hf
    obtain ⟨hagenda, hdue⟩ : u.agenda = [] ∧ u.untilTick = 0 := hu ▸ drive_untilTick _ ha rfl (hu ▸ hf)
    exact ⟨hagenda, _, step_dueTick hagenda hf hdue⟩

/-- Settles O54: the timer engine obeys one signal a Tick; once it has exited, or with FATAL set, a Tick changes
nothing. -/
theorem signalsTakeOneTickEachAndExitIsFinal : Obligations.SignalsTakeOneTickEachAndExitIsFinal := by
  refine ⟨?signals, ?exited, ?fatal⟩
  case signals =>
    intro sigs s hf he hq hx
    rw [ticks_timers _ hf]
    obtain ⟨hqueue, hexited, hclosed, hpaused⟩ := Timers.iterate_tick_signals sigs he hq hx
    refine ⟨hqueue, hexited, hclosed, hpaused.trans ?_⟩
    congr 1
    funext p sig
    cases sig <;> rfl
  case exited =>
    intro n s he
    refine ticks_of_tick_eq_self n ?_
    rw [s.tick_keep, s.tick_timers, Timers.tick_of_exited he, ite_self]
  case fatal => exact fun n s hf => ticks_of_tick_eq_self n (s.tick_of_fatal hf)

/-- Settles O26: with the stack exhausted the instruction is Fatal entry and nothing else. -/
theorem stackExhaustionSetsFatalOnly : Obligations.StackExhaustionSetsFatalOnly := by
  intro i s h
  have hx : StackExhausted i s := h.imp_left fun ⟨hi, hsp⟩ => ⟨hi, hsp.ge⟩
  exact ⟨s.setFatal, exec_of_stackExhausted hx, rfl⟩

/-- Settles O46: the next event is a step, and its frame checks the bound, then decodes. -/
theorem fetchBoundThenDecodeFailure : Obligations.FetchBoundThenDecodeFailure := by
  intro s hf hnext
  have hfails {c : Fault} (hfail : FrameFails s c) : step s = .fault c := by
    obtain ⟨inp, rest, ha⟩ | ⟨ha, hu⟩ := hnext
    · rw [step_commanded s rest inp ha hf]
      exact FrameFails.interpret_eq (hfail.congr rfl rfl rfl rfl)
    · rw [step_free s ha hf hu]
      exact FrameFails.interpret_eq (hfail.congr rfl rfl rfl rfl)
  exact ⟨fun hp => hfails (.fetchBound hp), fun hp hd => hfails (.decodeFailure hp hd)⟩

/-- Settles O52, by the ways a Tick goes: exited already, Exit, closed and empty, or one that the engine survives. -/
theorem tickFollowsItsRule : Obligations.TickFollowsItsRule := by
  intro s rest hf ha
  have hstep : step s = .next { s with agenda := rest, timers := s.timers.tick } :=
    (step_tick s rest ha).trans (congrArg Host.Outcome.next (State.tick_of_clear _ hf))
  refine ⟨_, hstep, rfl, Timers.tick_of_exited, fun he q => Timers.tick_of_exit he, Timers.tick_of_closed,
    fun he hx ho => ?stays⟩
  case stays =>
    obtain ⟨hdt, hst⟩ := s.timers.dequeued.decay_toNat
    have htick := Timers.tick_of_stays he hx ho
    dsimp only
    rw [htick]
    refine ⟨?queue, ?exited, ?closed, ?paused, hdt, hst⟩
    all_goals rw [Timers.decay_keep]
    case queue => rfl
    case exited => exact he
    case closed => rfl
    case paused =>
      change s.timers.queue.head?.elim s.timers.paused (pausedAfter s.timers.paused) = _
      cases s.timers.queue.head? with
      | none => rfl
      | some sig => cases sig <;> rfl

end Sys2Proof.Machine
